-- ==== Sys2Proof/Word.lean ====
section
/-! DEFINITION. The word types of FSID: the 32-bit host word and command word (spec 00_scope.md R5, R7) and the byte. -/

namespace Sys2Proof

/-- One host word: a register value or a command word (R82, R110). Bit 0 is the least significant bit (R7). -/
abbrev Word := BitVec 32

/-- One byte: a display-bus command byte (R120), or one byte of an instruction as `decode` takes it. -/
abbrev Byte := BitVec 8

end Sys2Proof
end

