-- ==== Sys2Proof/Config.lean ====
section
/-! DEFINITION. What is fixed for one FSID and what the outside world supplies: the named parameters of R6
(OPEN parameters of 92_eei_decisions.md), the input signals of one clock cycle (R47), and the free value that stands
for the inputs of a cycle nobody has listed. -/

namespace Sys2Proof

/-- The eight quadrature states the source names (R230). Their codes are `QState.code` (Machine/Quadrature.lean). -/
inductive QState where
  | start | cw1 | cw2 | cw3 | ccw1 | ccw2 | ccw3 | illegal
deriving DecidableEq, Repr, Inhabited

/-- The direction tag of a transition (R231). -/
inductive Tag where
  | none | cw | ccw
deriving DecidableEq, Repr, Inhabited

/-- One entry of the transition table: the next state and the tag (R231). -/
structure QEntry where
  next : QState
  tag  : Tag
deriving DecidableEq, Repr, Inhabited

/-- The named parameters of R6. The spec gives no value to any of them, so the machine takes them as data: every
statement about a state holds for every value of `State.cfg`. No step changes them. Their defaults are in
Machine/Params.lean. -/
structure Config where
  /-- `P_DELAY_RESET`, the reset value of DELAY; legal 1..65535, no default (D14). -/
  pDelayReset : BitVec 16
  /-- `P_CMD_DATA`, the data-write-mode command byte (D8). -/
  pCmdData : Byte
  /-- `P_CMD_ADDR`, the fixed-start-address command byte (D8). -/
  pCmdAddr : Byte
  /-- `P_DISPCTRL(on, bri)` as its table: entry `8*on + bri` is the display-control byte (D8). -/
  pDispCtrl : Vector Byte 16
  /-- `P_PIN_RESET_LEVEL` (D17). -/
  pPinResetLevel : Bool
  /-- `QTABLE`: row `QState.code q`, column `i = 2*A + B` (D18, D19). -/
  qTable : Vector (Vector QEntry 4) 8
  /-- `P_BASE`, where the platform puts the eight registers (D45); no rule of the spec uses it. -/
  pBase : Nat
deriving DecidableEq, Repr

/-- The three input pins (R4): encoder phases A and B, and the active-low push button. -/
inductive PinId where
  | a | b | sw
deriving DecidableEq, Repr

/-- The input signals of one clock cycle (R47). -/
structure CycleIn where
  rst      : Bool
  busAddr  : BitVec 3
  busWdata : Word
  busWe    : Bool
  busRe    : Bool
  pollTick : Bool
  encA     : Bool
  encB     : Bool
  encSw    : Bool
deriving DecidableEq, Repr, Inhabited

/-- The level the environment gives pin `p` in this cycle. -/
def CycleIn.pin (c : CycleIn) : PinId → Bool
  | .a => c.encA
  | .b => c.encB
  | .sw => c.encSw

/-- The inputs of the `n`-th cycle that no list of inputs names: a free value (log entry 1). It has no body that a
proof could use, so a claim that meets it holds for every input (R332, 93_implementation_defined.md I8). -/
opaque Config.freeInput : Nat → CycleIn

end Sys2Proof
end

