-- ==== Sys2Proof/Syntax.lean ====
section
/-! DEFINITION. The instructions of FSID-1: one constructor for each row of spec/opcode_table.json, that is the eight
commands (R115), the illegal command word (R116) and the fourteen host bus operations (R119). -/

namespace Sys2Proof

/-- An operand field is as wide as its encoding, so every value of it is encodable (R86, R112 to R114). -/
inductive Instr where
  /-- NOP (R174). -/
  | nop
  /-- CLEAR (R171). -/
  | clear
  /-- SETPIX ROW, COL, PM (R172); bit 0 of `pm` is plane A, bit 1 plane B (R112). -/
  | setpix (row col : BitVec 5) (pm : BitVec 2)
  /-- CLRPIX ROW, COL, PM (R173). -/
  | clrpix (row col : BitVec 5) (pm : BitVec 2)
  /-- WRFRAME (R199). -/
  | wrframe
  /-- DISPCTRL ON, BRI (R200). -/
  | dispctrl (on : Bool) (bri : BitVec 3)
  /-- POLL (R276). -/
  | poll
  /-- EVCLR CD, CP (R277). -/
  | evclr (cd cp : Bool)
  /-- A command word that `Decode` calls ILLEGAL (R116, R321). -/
  | illegal (w : Word)
  /-- RD.CMD (R292). -/
  | rdCmd
  /-- RD.STATUS (R293). -/
  | rdStatus
  /-- RD.EVENTS (R294). -/
  | rdEvents
  /-- RD.EVENTS_RC (R295). -/
  | rdEventsRc
  /-- RD.CONFIG (R296). -/
  | rdConfig
  /-- RD.DELAY (R297). -/
  | rdDelay
  /-- RD.RSVD (R298); `x` is bit 0 of the word address, so the address is 6 or 7. -/
  | rdRsvd (x : Bool)
  /-- WR.CMD w (R299). -/
  | wrCmd (w : Word)
  /-- WR.STATUS w (R300). -/
  | wrStatus (w : Word)
  /-- WR.EVENTS w (R301). -/
  | wrEvents (w : Word)
  /-- WR.EVENTS_RC w (R301). -/
  | wrEventsRc (w : Word)
  /-- WR.CONFIG w (R302). -/
  | wrConfig (w : Word)
  /-- WR.DELAY w (R303). -/
  | wrDelay (w : Word)
  /-- WR.RSVD w (R304); `x` as in `rdRsvd`. -/
  | wrRsvd (x : Bool) (w : Word)
deriving DecidableEq, Repr

end Sys2Proof
end

