-- ==== Sys2Proof/WellFormed.lean ====
section
/-! DEFINITION. Which instructions are well formed. Operand fields carry their width in their type, so the only check
left is that an `illegal` instruction carries a word that R116 calls illegal. -/

namespace Sys2Proof

/-- The bits that the format of each operation code marks "reserved, must be 0" (R111 to R114). -/
def reservedMask (op : BitVec 4) : Word :=
  if op = 0x2#4 ∨ op = 0x3#4 then 0x0FFFF000#32
  else if op = 0x5#4 then 0x0FFFFFF0#32
  else if op = 0x7#4 then 0x0FFFFFFC#32
  else 0x0FFFFFFF#32

/-- R116: a command word is illegal when its OP is 1000 to 1111, or when one of its format's reserved bits is 1. -/
def illegalWord (w : Word) : Bool :=
  w.getLsbD 31 || (w &&& reservedMask (w.extractLsb' 28 4)) != 0#32

/-- Well-formed instructions: those some bus cycle presents. -/
def Instr.wf : Instr → Bool
  | .illegal w => illegalWord w
  | .nop => true
  | .clear => true
  | .setpix _ _ _ => true
  | .clrpix _ _ _ => true
  | .wrframe => true
  | .dispctrl _ _ => true
  | .poll => true
  | .evclr _ _ => true
  | .rdCmd => true
  | .rdStatus => true
  | .rdEvents => true
  | .rdEventsRc => true
  | .rdConfig => true
  | .rdDelay => true
  | .rdRsvd _ => true
  | .wrCmd _ => true
  | .wrStatus _ => true
  | .wrEvents _ => true
  | .wrEventsRc _ => true
  | .wrConfig _ => true
  | .wrDelay _ => true
  | .wrRsvd _ _ => true

end Sys2Proof
end

