-- ==== Sys2Proof/Decode.lean ====
section
/-! DEFINITION. The decoder: command words (R117), bus descriptors (R119), the bus signals of a cycle, byte strings and
the opcode table's numbering; and after it the encoder. Both are written from 30_encoding.md. -/

namespace Sys2Proof

/-- What `Decode` returns for a command word (R117). -/
inductive Command where
  | nop
  | clear
  | setpix (row col : BitVec 5) (pm : BitVec 2)
  | clrpix (row col : BitVec 5) (pm : BitVec 2)
  | wrframe
  | dispctrl (on : Bool) (bri : BitVec 3)
  | poll
  | evclr (cd cp : Bool)
  | illegal (w : Word)
deriving DecidableEq, Repr

/-- The instruction a decoded command word is. -/
def Command.toInstr : Command → Instr
  | .nop => .nop
  | .clear => .clear
  | .setpix r c pm => .setpix r c pm
  | .clrpix r c pm => .clrpix r c pm
  | .wrframe => .wrframe
  | .dispctrl on bri => .dispctrl on bri
  | .poll => .poll
  | .evclr cd cp => .evclr cd cp
  | .illegal w => .illegal w

/-- The decoder of R117, total on all 2^32 words. -/
def decodeCommand (w : Word) : Command :=
  match (w.extractLsb' 28 4).toNat with
  | 0 => if w.extractLsb' 0 28 = 0#28 then .nop else .illegal w
  | 1 => if w.extractLsb' 0 28 = 0#28 then .clear else .illegal w
  | 2 => if w.extractLsb' 12 16 = 0#16
      then .setpix (w.extractLsb' 0 5) (w.extractLsb' 5 5) (w.extractLsb' 10 2) else .illegal w
  | 3 => if w.extractLsb' 12 16 = 0#16
      then .clrpix (w.extractLsb' 0 5) (w.extractLsb' 5 5) (w.extractLsb' 10 2) else .illegal w
  | 4 => if w.extractLsb' 0 28 = 0#28 then .wrframe else .illegal w
  | 5 => if w.extractLsb' 4 24 = 0#24 then .dispctrl (w.getLsbD 3) (w.extractLsb' 0 3) else .illegal w
  | 6 => if w.extractLsb' 0 28 = 0#28 then .poll else .illegal w
  | 7 => if w.extractLsb' 2 26 = 0#26 then .evclr (w.getLsbD 0) (w.getLsbD 1) else .illegal w
  | _ => .illegal w

/-- The bus operation of a descriptor `{dir, addr[2:0]}` (R119), with `bus_wdata` as the operand of a write. -/
def decodeOperation (desc : BitVec 4) (wdata : Word) : Instr :=
  match desc.toNat with
  | 0 => .rdCmd
  | 1 => .rdStatus
  | 2 => .rdEvents
  | 3 => .rdEventsRc
  | 4 => .rdConfig
  | 5 => .rdDelay
  | 6 => .rdRsvd false
  | 7 => .rdRsvd true
  | 8 => .wrCmd wdata
  | 9 => .wrStatus wdata
  | 10 => .wrEvents wdata
  | 11 => .wrEventsRc wdata
  | 12 => .wrConfig wdata
  | 13 => .wrDelay wdata
  | 14 => .wrRsvd false wdata
  | _ => .wrRsvd true wdata

/-- The operation a cycle's bus signals present, if any. A write to CMD is its command (R299). Where the cycle reads
as well as writes, the write is the instruction and the read goes along with it (R305; log entry 4). -/
def fetch (c : CycleIn) : Option Instr :=
  if c.busWe then
    if c.busAddr = 0#3 then some (decodeCommand c.busWdata).toInstr
    else some (decodeOperation (1#1 ++ c.busAddr) c.busWdata)
  else if c.busRe then some (decodeOperation (0#1 ++ c.busAddr) c.busWdata)
  else none

/-- Why a byte string is no instruction. -/
inductive Rejection where
  /-- Neither 4 bytes (a command word) nor 5 bytes (a descriptor and its data word). -/
  | wrongLength (n : Nat)
  /-- The descriptor byte has a bit above its four (R119). -/
  | descriptorTooWide (b : Byte)
deriving DecidableEq, Repr

/-- A word from four bytes, least significant first (the table's numbering; log entry 5). -/
def wordOfBytes (b0 b1 b2 b3 : Byte) : Word := b3 ++ b2 ++ b1 ++ b0

/-- The decoder on bytes: four bytes are a command word, five are a descriptor byte and its data word. -/
def decode : List Byte → Except Rejection Instr
  | [b0, b1, b2, b3] => .ok (decodeCommand (wordOfBytes b0 b1 b2 b3)).toInstr
  | [d, b0, b1, b2, b3] =>
    if d.extractLsb' 4 4 = 0#4 then .ok (decodeOperation (d.extractLsb' 0 4) (wordOfBytes b0 b1 b2 b3))
    else .error (.descriptorTooWide d)
  | bs => .error (.wrongLength bs.length)

/-- The instruction in the numbering of spec/opcode_table.json: a row of 32 bits is a command word, a row of at most
8 bits is a bus descriptor, whose data word the table gives no bits, so that it is 0. -/
def decodeTableWord (nbits w : Nat) : Option Instr :=
  if nbits = 32 then
    if w < 2 ^ 32 then some (decodeCommand (BitVec.ofNat 32 w)).toInstr else none
  else if nbits ≤ 8 then
    if w < 2 ^ 8 then (decode [BitVec.ofNat 8 w, 0#8, 0#8, 0#8, 0#8]).toOption else none
  else none

/-- The cycle `c` with the bus signals of the instruction that `w` is in the table's numbering: 32 bits are a write of
a command word to CMD, at most 8 bits a bus descriptor with `bus_wdata = 0`. No reset; pins and `poll_tick` stay. -/
def CycleIn.withTableWord (c : CycleIn) (nbits w : Nat) : CycleIn :=
  if nbits ≤ 8 then
    { c with rst := false, busWe := w.testBit 3, busRe := !w.testBit 3, busAddr := BitVec.ofNat 3 w, busWdata := 0#32 }
  else { c with rst := false, busWe := true, busRe := false, busAddr := 0#3, busWdata := BitVec.ofNat 32 w }

/-! The encoder. -/

/-- The word of a command (R111 to R115). -/
def encodeCommand : Command → Word
  | .nop => 0x00000000#32
  | .clear => 0x10000000#32
  | .setpix row col pm => 0x2#4 ++ 0#16 ++ pm ++ col ++ row
  | .clrpix row col pm => 0x3#4 ++ 0#16 ++ pm ++ col ++ row
  | .wrframe => 0x40000000#32
  | .dispctrl on bri => 0x5#4 ++ 0#24 ++ BitVec.ofBool on ++ bri
  | .poll => 0x60000000#32
  | .evclr cd cp => 0x7#4 ++ 0#26 ++ BitVec.ofBool cp ++ BitVec.ofBool cd
  | .illegal w => w

/-- What an instruction puts on the bus: `bus_we` (a read has `bus_re` instead), `bus_addr` and `bus_wdata` (R119). A
read's data word is not used, and stands as 0. -/
structure BusSignals where
  we    : Bool
  addr  : BitVec 3
  wdata : Word
deriving DecidableEq, Repr

/-- The bus signals of an instruction (R119; R123: a command is one write to CMD). -/
def Instr.signals : Instr → BusSignals
  | .nop => ⟨true, 0, encodeCommand .nop⟩
  | .clear => ⟨true, 0, encodeCommand .clear⟩
  | .setpix r c pm => ⟨true, 0, encodeCommand (.setpix r c pm)⟩
  | .clrpix r c pm => ⟨true, 0, encodeCommand (.clrpix r c pm)⟩
  | .wrframe => ⟨true, 0, encodeCommand .wrframe⟩
  | .dispctrl on bri => ⟨true, 0, encodeCommand (.dispctrl on bri)⟩
  | .poll => ⟨true, 0, encodeCommand .poll⟩
  | .evclr cd cp => ⟨true, 0, encodeCommand (.evclr cd cp)⟩
  | .illegal w => ⟨true, 0, encodeCommand (.illegal w)⟩
  | .rdCmd => ⟨false, 0, 0⟩
  | .rdStatus => ⟨false, 1, 0⟩
  | .rdEvents => ⟨false, 2, 0⟩
  | .rdEventsRc => ⟨false, 3, 0⟩
  | .rdConfig => ⟨false, 4, 0⟩
  | .rdDelay => ⟨false, 5, 0⟩
  | .rdRsvd x => ⟨false, 0b11#2 ++ BitVec.ofBool x, 0⟩
  | .wrCmd w => ⟨true, 0, w⟩
  | .wrStatus w => ⟨true, 1, w⟩
  | .wrEvents w => ⟨true, 2, w⟩
  | .wrEventsRc w => ⟨true, 3, w⟩
  | .wrConfig w => ⟨true, 4, w⟩
  | .wrDelay w => ⟨true, 5, w⟩
  | .wrRsvd x w => ⟨true, 0b11#2 ++ BitVec.ofBool x, w⟩

/-- Is the instruction a command of its own (four bytes), or a bus operation (a descriptor byte and its data word)? -/
def Instr.isCommand : Instr → Bool
  | .nop => true
  | .clear => true
  | .setpix _ _ _ => true
  | .clrpix _ _ _ => true
  | .wrframe => true
  | .dispctrl _ _ => true
  | .poll => true
  | .evclr _ _ => true
  | .illegal _ => true
  | .rdCmd => false
  | .rdStatus => false
  | .rdEvents => false
  | .rdEventsRc => false
  | .rdConfig => false
  | .rdDelay => false
  | .rdRsvd _ => false
  | .wrCmd _ => false
  | .wrStatus _ => false
  | .wrEvents _ => false
  | .wrEventsRc _ => false
  | .wrConfig _ => false
  | .wrDelay _ => false
  | .wrRsvd _ _ => false

/-- The four bytes of a word, least significant first. -/
def bytesOfWord (w : Word) : List Byte :=
  [w.extractLsb' 0 8, w.extractLsb' 8 8, w.extractLsb' 16 8, w.extractLsb' 24 8]

/-- The bytes of an instruction: what `decode` reads back. -/
def encode (i : Instr) : List Byte :=
  if i.isCommand then bytesOfWord i.signals.wdata
  else (0#4 ++ (BitVec.ofBool i.signals.we ++ i.signals.addr)) :: bytesOfWord i.signals.wdata

/-- The cycle presents exactly the instruction `i`: no reset, its bus signals, and no read beside a write. -/
def CycleIn.presents (c : CycleIn) (i : Instr) : Bool :=
  !c.rst && (c.busWe == i.signals.we) && (c.busRe == !i.signals.we) && (c.busAddr == i.signals.addr)
    && (!i.signals.we || c.busWdata == i.signals.wdata)

end Sys2Proof
end

