-- ==== Sys2Proof/Machine/Params.lean ====
section
/-! DEFINITION. Reading the parameters of R6, and the defaults the spec gives them. -/

namespace Sys2Proof

/-- The code of a quadrature state: QST and EVENTS[6:4] (R230). -/
def QState.code : QState → BitVec 3
  | .start => 0
  | .cw1 => 1
  | .cw2 => 2
  | .cw3 => 3
  | .ccw1 => 4
  | .ccw2 => 5
  | .ccw3 => 6
  | .illegal => 7

/-- `P_DISPCTRL(on, bri)`. -/
def Config.dispCtrl (cfg : Config) (on : Bool) (bri : BitVec 3) : Byte :=
  cfg.pDispCtrl.get (BitVec.ofBool on ++ bri).toFin

/-- `QTABLE[q][i]`. -/
def Config.qEntry (cfg : Config) (q : QState) (i : BitVec 2) : QEntry :=
  (cfg.qTable.get q.code.toFin).get i.toFin

/-- The bit each of 64 history bits has at reset (R30). -/
def Config.histReset (cfg : Config) : BitVec 64 :=
  if cfg.pPinResetLevel then BitVec.allOnes 64 else 0#64

/-- The default table of R231, a row per state, a column per input `i = 2*A + B`. -/
def defaultQTable : Vector (Vector QEntry 4) 8 :=
  #v[
    -- START
    #v[⟨.illegal, .none⟩, ⟨.cw1, .none⟩, ⟨.ccw1, .none⟩, ⟨.start, .none⟩],
    -- CW1
    #v[⟨.cw2, .none⟩, ⟨.cw1, .none⟩, ⟨.illegal, .none⟩, ⟨.start, .none⟩],
    -- CW2
    #v[⟨.cw2, .none⟩, ⟨.cw1, .none⟩, ⟨.cw3, .none⟩, ⟨.illegal, .none⟩],
    -- CW3
    #v[⟨.cw2, .none⟩, ⟨.illegal, .none⟩, ⟨.cw3, .none⟩, ⟨.start, .cw⟩],
    -- CCW1
    #v[⟨.ccw2, .none⟩, ⟨.illegal, .none⟩, ⟨.ccw1, .none⟩, ⟨.start, .none⟩],
    -- CCW2
    #v[⟨.ccw2, .none⟩, ⟨.ccw3, .none⟩, ⟨.ccw1, .none⟩, ⟨.illegal, .none⟩],
    -- CCW3
    #v[⟨.ccw2, .none⟩, ⟨.ccw3, .none⟩, ⟨.illegal, .none⟩, ⟨.start, .ccw⟩],
    -- ILLEGAL
    #v[⟨.illegal, .none⟩, ⟨.illegal, .none⟩, ⟨.illegal, .none⟩, ⟨.start, .none⟩]
  ]

/-- The default `P_DISPCTRL`: `0x80 | (on << 3) | bri` (R6, R120), entry `8*on + bri`. -/
def defaultDispCtrl : Vector Byte 16 :=
  Vector.ofFn fun k => 0x80#8 ||| BitVec.ofNat 8 k.val

/-- The defaults of R6. `P_DELAY_RESET` and `P_BASE` have none in the spec: DESIGN CHOICE 1 and 0 (log entries 2
and 3). -/
def Config.default : Config where
  pDelayReset := 1
  pCmdData := 0x40
  pCmdAddr := 0xC0
  pDispCtrl := defaultDispCtrl
  pPinResetLevel := true
  qTable := defaultQTable
  pBase := 0

/-- What the test bench of R122 drives before its first `PINS` in a cycle with no statement of its own: no bus access,
no poll tick, no reset, and the pins at 1, 1, 1. -/
def benchIdle : CycleIn where
  rst := false
  busAddr := 0
  busWdata := 0
  busWe := false
  busRe := false
  pollTick := false
  encA := true
  encB := true
  encSw := true

end Sys2Proof
end

