-- ==== Sys2Proof/Machine/State.lean ====
section
/-! DEFINITION. The state of FSID as R30 lists it, grouped by the sub-blocks of R3, beside the parameters (R6) and what
the model needs of the outside world: the inputs of the coming cycles and the last read data. Faults, refusals and
the reset state (R350, R351). -/

namespace Sys2Proof.Machine

/-- The logical matrix (R31): `M.A[r][c]` is bit `c` of row `r` of `a`, and `M.B[r][c]` of `b`. -/
structure Matrix where
  a : Vector (BitVec 32) 32
  b : Vector (BitVec 32) 32
deriving DecidableEq, Repr

/-- Every flag off. -/
def Matrix.off : Matrix := { a := Vector.replicate 32 0#32, b := Vector.replicate 32 0#32 }

/-- A physical frame (R32): entry `ch` of `p0` is the bitplane `F[ch][0]`, of `p1` the bitplane `F[ch][1]`. -/
structure Frame where
  p0 : Vector (BitVec 64) 16
  p1 : Vector (BitVec 64) 16
deriving DecidableEq, Repr

/-- Every bitplane zero. -/
def Frame.zero : Frame := { p0 := Vector.replicate 16 0#64, p1 := Vector.replicate 16 0#64 }

/-- KIND (R30): 0 = FRAME, 1 = CTRL. -/
inductive Kind where
  | frame | ctrl
deriving DecidableEq, Repr

/-- A line event (R191): the clock level and the data vector, bit `c` of which is data line `c`. -/
structure LineEvent where
  clk  : Bool
  data : BitVec 16
deriving DecidableEq, Repr

/-- The idle lines (R205). -/
def LineEvent.idle : LineEvent := { clk := true, data := 0xFFFF#16 }

/-- The serializer: the frame snapshot, the sequencer (R33) and the line registers (R34). -/
structure Serializer where
  snap : Frame
  busy : Bool
  kind : Kind
  eidx : BitVec 9
  wcnt : BitVec 16
  dl   : BitVec 16
  cb   : Byte
  /-- CLK_O and DATA_O. -/
  lines : LineEvent
deriving DecidableEq, Repr

/-- One input pin: its synchronizer (R44), its debounce filter (R43, R250) and its depth field of CONFIG (R38). -/
structure Pin where
  sync1 : Bool
  sync2 : Bool
  hist  : BitVec 64
  lvl   : Bool
  n     : BitVec 7
deriving DecidableEq, Repr

/-- The three pins. -/
structure Pins where
  a  : Pin
  b  : Pin
  sw : Pin
deriving DecidableEq, Repr

/-- The model's own view of the outside world, no state of FSID: the inputs of the coming cycles, oldest first; how
many cycles have taken a free input because the list was empty; and `bus_rdata` as the last cycle showed it (R291),
which nothing in FSID reads (log entries 1 and 6). -/
structure Env where
  inputs : List CycleIn
  drawn  : Nat
  rdata  : Word
deriving DecidableEq, Repr

/-- The state of the machine. `cfg` is the parameters, which no step changes; `env` is the outside world; every other
field is an element of R30. -/
structure State where
  cfg    : Config
  m      : Matrix
  ser    : Serializer
  delay  : BitVec 16
  pins   : Pins
  qst    : QState
  /-- DELTA, two's complement: 00 = 0, 01 = +1, 11 = -1 (R41, D33). -/
  delta  : BitVec 2
  press  : Bool
  ovr    : Bool
  cmderr : Bool
  env    : Env
deriving DecidableEq, Repr

/-- FSID has no fault: no trap, no jump, no stop (R10, R320, R326). So no step ends in one, and the type is empty. -/
inductive Fault where
deriving DecidableEq, Repr

/-- Why an instruction is refused. -/
inductive Refusal where
  /-- An arm of `exec` without a meaning yet; safe, since no claim is proved of it. No arm raises it now. -/
  | notModelled (mnemonic : String)
deriving DecidableEq, Repr

/-- The two causes FSID records (R320). -/
inductive Cause where
  /-- CmdErr: an illegal command word (R321). -/
  | cmdErr
  /-- Overrun: a serial command while BUSY (R322). -/
  | overrun
deriving DecidableEq, Repr

/-- The result of one debounce step (R252). -/
inductive Edge where
  | none | rise | fall
deriving DecidableEq, Repr

/-- A pin after reset (R30, R351). -/
def Pin.reset (cfg : Config) : Pin where
  sync1 := cfg.pPinResetLevel
  sync2 := cfg.pPinResetLevel
  hist := cfg.histReset
  lvl := cfg.pPinResetLevel
  n := 64

/-- The serializer after reset (R30, R351). -/
def Serializer.reset : Serializer where
  snap := .zero
  busy := false
  kind := .frame
  eidx := 0
  wcnt := 0
  dl := 0
  cb := 0
  lines := .idle

/-- The reset column of R30 for the parameters `cfg`, in the outside world `env`. -/
def State.resetOf (cfg : Config) (env : Env) : State where
  cfg := cfg
  m := .off
  ser := .reset
  delay := cfg.pDelayReset
  pins := { a := .reset cfg, b := .reset cfg, sw := .reset cfg }
  qst := .start
  delta := 0
  press := false
  ovr := false
  cmderr := false
  env := env

/-- The machine right after reset, with the default parameters and no input listed yet. -/
def State.reset : State :=
  .resetOf .default { inputs := [], drawn := 0, rdata := 0 }

end Sys2Proof.Machine
end

