-- ==== Sys2Proof/Machine/Ops.lean ====
section
/-! DEFINITION. Operations over the state that every part shares: bits from a function, one matrix flag, one frame
bit, one pin, the inputs of the current cycle, and the recording and clearing of a cause (R326, R327). -/

namespace Sys2Proof.Machine

/-- The `n`-bit vector whose bit `i` is `f i`. -/
def bitsOf : (n : Nat) → (Nat → Bool) → BitVec n
  | 0, _ => 0#0
  | n + 1, f => BitVec.cons (f n) (bitsOf n f)

/-- One flag of a plane of the matrix: row `r`, column `c`. -/
def flag (plane : Vector (BitVec 32) 32) (r c : BitVec 5) : Bool :=
  (plane.get r.toFin).getLsbD c.toNat

/-- A plane with the flag `(r, c)` set to `v`, every other flag as it was. -/
def withFlag (plane : Vector (BitVec 32) 32) (r c : BitVec 5) (v : Bool) : Vector (BitVec 32) 32 :=
  let row := plane.get r.toFin
  let cleared := row &&& ~~~(1#32 <<< c.toNat)
  plane.set r.toFin (cleared ||| (if v then 1#32 <<< c.toNat else 0#32)) r.toFin.isLt

/-- The bitplane `F[ch][p]` (R87). -/
def Frame.plane (f : Frame) (ch : BitVec 4) (p : BitVec 1) : BitVec 64 :=
  if p = 0#1 then f.p0.get ch.toFin else f.p1.get ch.toFin

/-- One pin by its name. -/
def Pins.get (ps : Pins) : PinId → Pin
  | .a => ps.a
  | .b => ps.b
  | .sw => ps.sw

/-- The output pins `disp_clk` and `disp_data` (R34, R190). -/
def State.dispClk (s : State) : Bool := s.ser.lines.clk
def State.dispData (s : State) : BitVec 16 := s.ser.lines.data

/-- The input signals of the current cycle: the first listed, or a free value where none is listed. -/
def State.now (s : State) : CycleIn :=
  match s.env.inputs with
  | c :: _ => c
  | [] => Config.freeInput s.env.drawn

/-- The outside world after a cycle that showed `rdata` on `bus_rdata`. -/
def Env.advance (e : Env) (rdata : Word) : Env :=
  match e.inputs with
  | _ :: cs => { e with inputs := cs, rdata := rdata }
  | [] => { e with drawn := e.drawn + 1, rdata := rdata }

/-- `raise` (R10, R326): a cause sets its sticky STATUS bit and does nothing else. FSID has no trap entry. -/
def raise (c : Cause) (s : State) : State :=
  match c with
  | .cmdErr => { s with cmderr := true }
  | .overrun => { s with ovr := true }

/-- The only "return" (R327): the host's write of 1 to a cause's STATUS bit clears it. -/
def acknowledge (c : Cause) (one : Bool) (s : State) : State :=
  match c with
  | .cmdErr => { s with cmderr := s.cmderr && !one }
  | .overrun => { s with ovr := s.ovr && !one }

end Sys2Proof.Machine
end

