-- ==== Sys2Proof/Machine/Debounce.lean ====
section
/-! DEFINITION. The synchronizer of a pin (R44) and its debounce filter (44_debounce.md). -/

namespace Sys2Proof.Machine

/-- `mask(N)` on 64 bits (R8). -/
def mask64 (n : Nat) : BitVec 64 := BitVec.ofNat 64 (2 ^ n - 1)

/-- The history with the new sample in bit 0 (R251). -/
def pushSample (hist : BitVec 64) (x : Bool) : BitVec 64 :=
  (hist <<< 1) ||| (if x then 1#64 else 0#64)

/-- A pin after a filter step, and the step's edge. -/
structure Filtered where
  pin  : Pin
  edge : Edge
deriving DecidableEq, Repr

/-- `Debounce(p, s)` (R252). -/
def debounce (p : Pin) (x : Bool) : Filtered :=
  let h := pushSample p.hist x
  let w := h &&& mask64 p.n.toNat
  if w = mask64 p.n.toNat ∧ p.lvl = false then { pin := { p with hist := h, lvl := true }, edge := .rise }
  else if w = 0#64 ∧ p.lvl = true then { pin := { p with hist := h, lvl := false }, edge := .fall }
  else { pin := { p with hist := h }, edge := .none }

/-- One clock edge of a pin's two synchronizer flops (R44). -/
def Pin.sync (p : Pin) (level : Bool) : Pin := { p with sync1 := level, sync2 := p.sync1 }

/-- The synchronizers of the three pins. -/
def Pins.sync (ps : Pins) (c : CycleIn) : Pins where
  a := ps.a.sync c.encA
  b := ps.b.sync c.encB
  sw := ps.sw.sync c.encSw

end Sys2Proof.Machine
end

