-- ==== Sys2Proof/Machine/Quadrature.lean ====
section
/-! DEFINITION. The quadrature decoder (43_quadrature.md). -/

namespace Sys2Proof.Machine

/-- The rotation tick of a direction tag (R232): clockwise is -1, counter-clockwise +1. -/
def Tag.tick : Tag → Int
  | .none => 0
  | .cw => -1
  | .ccw => 1

/-- `QDecode(i)` (R232): the next state and the tick. -/
def qDecode (cfg : Config) (q : QState) (i : BitVec 2) : QState × Int :=
  let e := cfg.qEntry q i
  (e.next, Tag.tick e.tag)

/-- The input code `i = 2*A + B` (R230). -/
def phaseInput (a b : Bool) : BitVec 2 := BitVec.ofBool a ++ BitVec.ofBool b

end Sys2Proof.Machine
end

