-- ==== Sys2Proof/Machine/Aggregator.lean ====
section
/-! DEFINITION. The poll procedure of the event aggregator (45_aggregator.md R271 to R274). -/

namespace Sys2Proof.Machine

/-- What a cycle's poll tick (or its absence) gives: the filters, the decoder state, and what goes to the merge. -/
structure PollResult where
  pins     : Pins
  qst      : QState
  r        : Int
  pressSet : Bool
deriving DecidableEq, Repr

/-- `Poll` (R272). The sample of a pin is its second synchronizer flop (R271); the decoder gets the levels after this
tick, and is called once when phase A or B had an edge (R273); a fall of SW is a press (R274). -/
def poll (cfg : Config) (ps : Pins) (q : QState) : PollResult :=
  let fa := debounce ps.a ps.a.sync2
  let fb := debounce ps.b ps.b.sync2
  let fw := debounce ps.sw ps.sw.sync2
  let d := if fa.edge ≠ .none ∨ fb.edge ≠ .none then qDecode cfg q (phaseInput fa.pin.lvl fb.pin.lvl) else (q, 0)
  { pins := { a := fa.pin, b := fb.pin, sw := fw.pin }, qst := d.1, r := d.2, pressSet := decide (fw.edge = .fall) }

/-- The poll part of a cycle (R47): `Poll` in a poll-tick cycle, and (0, false) otherwise. -/
def pollCycle (tick : Bool) (cfg : Config) (ps : Pins) (q : QState) : PollResult :=
  if tick then poll cfg ps q else { pins := ps, qst := q, r := 0, pressSet := false }

end Sys2Proof.Machine
end

