-- ==== Sys2Proof/Machine/Flags.lean ====
section
/-! DEFINITION. The status flags (R36, R45), the words the host reads (R291), and the merge of the pending events
(R275). -/

namespace Sys2Proof.Machine

/-- PEND, computed and not stored (R36). -/
def State.pend (s : State) : Bool := s.delta != 0#2 || s.press

/-- STATUS (R36). -/
def State.statusWord (s : State) : Word :=
  (BitVec.ofBool s.pend ++ BitVec.ofBool s.cmderr ++ BitVec.ofBool s.ovr ++ BitVec.ofBool s.ser.busy).setWidth 32

/-- EVENTS and EVENTS_RC (R37). -/
def State.eventsWord (s : State) : Word :=
  (BitVec.ofBool s.pins.sw.lvl ++ BitVec.ofBool s.pins.b.lvl ++ BitVec.ofBool s.pins.a.lvl ++ 0#1 ++ s.qst.code
    ++ 0#1 ++ BitVec.ofBool s.press ++ s.delta).setWidth 32

/-- CONFIG (R38). -/
def State.configWord (s : State) : Word :=
  (s.pins.sw.n ++ 0#1 ++ s.pins.b.n ++ 0#1 ++ s.pins.a.n).setWidth 32

/-- DELAY (R39). -/
def State.delayWord (s : State) : Word := s.delay.setWidth 32

/-- `ReadReg` (R291). -/
def readReg (s : State) (a : BitVec 3) : Word :=
  match a.toNat with
  | 0 => 0#32
  | 1 => s.statusWord
  | 2 => s.eventsWord
  | 3 => s.eventsWord
  | 4 => s.configWord
  | 5 => s.delayWord
  | _ => 0#32

/-- `enc2` of R275: the two's complement code of a rotation tick (D33). -/
def enc2 (r : Int) : BitVec 2 := BitVec.ofInt 2 r

/-- DELTA after a cycle (R275): a new tick wins over a clear. -/
def mergeDelta (r : Int) (clrD : Bool) (delta : BitVec 2) : BitVec 2 :=
  if r ≠ 0 then enc2 r else if clrD then 0#2 else delta

/-- PRESS after a cycle (R275): a new press wins over a clear. -/
def mergePress (pressSet clrP press : Bool) : Bool :=
  if pressSet then true else if clrP then false else press

end Sys2Proof.Machine
end

