-- ==== Sys2Proof/Machine/Operands.lean ====
section
/-! DEFINITION. The operand forms: the pixel and plane mask of format PIX on the matrix (R112, R172, R173), and the
legal values of the CONFIG and DELAY fields (R302, R303). -/

namespace Sys2Proof.Machine

/-- SETPIX on the matrix (R172): OR the selected planes' flags of one pixel on. -/
def Matrix.setPixel (m : Matrix) (row col : BitVec 5) (pm : BitVec 2) : Matrix where
  a := withFlag m.a row col (flag m.a row col || pm.getLsbD 0)
  b := withFlag m.b row col (flag m.b row col || pm.getLsbD 1)

/-- CLRPIX on the matrix (R173): turn the selected planes' flags of one pixel off. -/
def Matrix.clearPixel (m : Matrix) (row col : BitVec 5) (pm : BitVec 2) : Matrix where
  a := withFlag m.a row col (flag m.a row col && !pm.getLsbD 0)
  b := withFlag m.b row col (flag m.b row col && !pm.getLsbD 1)

/-- A depth field of CONFIG takes a legal value 1..64 and keeps its old one otherwise (R38, R302). -/
def warlDepth (old new : BitVec 7) : BitVec 7 :=
  if 1 ≤ new.toNat ∧ new.toNat ≤ 64 then new else old

/-- The DELAY field takes a value other than 0 (R39, R303). -/
def warlDelay (old new : BitVec 16) : BitVec 16 :=
  if new ≠ 0#16 then new else old

/-- A pin with another depth; its history and level stay (R254). -/
def Pin.withDepth (p : Pin) (new : BitVec 7) : Pin := { p with n := warlDepth p.n new }

/-- The three depths from a CONFIG word (R302). -/
def Pins.withConfig (ps : Pins) (w : Word) : Pins where
  a := ps.a.withDepth (w.extractLsb' 0 7)
  b := ps.b.withDepth (w.extractLsb' 8 7)
  sw := ps.sw.withDepth (w.extractLsb' 16 7)

end Sys2Proof.Machine
end

