-- ==== Sys2Proof/Machine/Serializer.lean ====
section
/-! DEFINITION. The display-bus serializer (42_serializer.md): line events, the two transaction programs, the start of
a transaction and its advance. -/

namespace Sys2Proof.Machine

/-- START (R192). -/
def startSeq : List LineEvent := [⟨true, 0x0000#16⟩, ⟨false, 0x0000#16⟩]

/-- STOP (R193). -/
def stopSeq : List LineEvent := [⟨false, 0x0000#16⟩, ⟨true, 0x0000#16⟩, ⟨true, 0xFFFF#16⟩]

/-- `BIT(v)` (R194). -/
def bitTick (v : BitVec 16) : List LineEvent := [⟨false, v⟩, ⟨true, v⟩, ⟨false, v⟩]

/-- `bc` (R195): every line carries the same bit. -/
def broadcast (x : Bool) : BitVec 16 := if x then 0xFFFF#16 else 0x0000#16

/-- `BYTE(b)` (R195): eight bit-ticks, least significant bit first. -/
def byteSeq (b : Byte) : List LineEvent :=
  (List.range 8).flatMap fun i => bitTick (broadcast (b.getLsbD i))

/-- `pv(F, k)` (R196): line `ch` carries bit `k mod 64` of the bitplane `F[ch][k div 64]`. -/
def payloadVector (f : Frame) (k : Nat) : BitVec 16 :=
  bitsOf 16 fun ch => (f.plane (BitVec.ofNat 4 ch) (BitVec.ofNat 1 (k / 64))).getLsbD (k % 64)

/-- `PAYLOAD(F)` (R196): 128 bit-ticks, plane 0 first. -/
def payload (f : Frame) : List LineEvent :=
  (List.range 128).flatMap fun k => bitTick (payloadVector f k)

/-- `Prog(FRAME, SNAP)` (R197). -/
def frameProgram (cfg : Config) (snap : Frame) : List LineEvent :=
  startSeq ++ byteSeq cfg.pCmdData ++ stopSeq ++ startSeq ++ byteSeq cfg.pCmdAddr ++ payload snap ++ stopSeq

/-- `Prog(CTRL, CB)` (R198). -/
def ctrlProgram (cb : Byte) : List LineEvent := startSeq ++ byteSeq cb ++ stopSeq

/-- `Last(KIND)` (R197, R198). -/
def Kind.last : Kind → Nat
  | .frame => 441
  | .ctrl => 28

/-- `Ev(kind, e)` (R197, R198): event `e` of the program, with the payload read from SNAP and the control byte from CB.
There is none past the program's end, which no transaction reaches (R208). -/
def Serializer.event (cfg : Config) (z : Serializer) (kind : Kind) (e : Nat) : Option LineEvent :=
  match kind with
  | .frame => (frameProgram cfg z.snap)[e]?
  | .ctrl => (ctrlProgram z.cb)[e]?

/-- `emit` (R194): the line registers take the event, or stay where there is none (log entry 7). -/
def Serializer.emit (z : Serializer) (ev : Option LineEvent) : Serializer :=
  { z with lines := ev.getD z.lines }

/-- `Start(kind)` (R201): the first event goes out and DELAY is latched. -/
def Serializer.start (cfg : Config) (delay : BitVec 16) (kind : Kind) (z : Serializer) : Serializer :=
  { z with busy := true, kind := kind, eidx := 0, dl := delay, wcnt := delay }.emit (z.event cfg kind 0)

/-- `SerAdvance` (R202). -/
def serAdvance (cfg : Config) (z : Serializer) : Serializer :=
  if z.wcnt.toNat > 1 then { z with wcnt := z.wcnt - 1#16 }
  else if z.eidx.toNat = z.kind.last then { z with busy := false }
  else { z with eidx := z.eidx + 1#9, wcnt := z.dl }.emit (z.event cfg z.kind (z.eidx.toNat + 1))

/-- The serializer's own part of a cycle (R47): it advances in every cycle that finds BUSY set. -/
def serCycle (cfg : Config) (z : Serializer) : Serializer :=
  if z.busy then serAdvance cfg z else z

end Sys2Proof.Machine
end

