-- ==== Sys2Proof/Machine/Cycle.lean ====
section
/-! DEFINITION. One clock cycle without reset (R47), as one shared operation: what the host's access asks of the cycle
is a `HostOp`, and `runCycle` puts it together with the parts that run in every cycle. -/

namespace Sys2Proof.Machine

/-- What a host access asks of its cycle: its own writes (the pre-edge state with those writes made), a poll tick, the
clear requests (R275) and the read data. -/
structure HostOp where
  wr    : State
  tick  : Bool := false
  clrD  : Bool := false
  clrP  : Bool := false
  rdata : Word := 0#32
deriving DecidableEq, Repr

/-- The pins after a cycle: history and level from the poll part, depth from the host's write, flops from the pins'
levels; three writers, each with fields of its own (R47). -/
def Pin.atEdge (polled : Pin) (level : Bool) (depth : BitVec 7) : Pin :=
  { polled.sync level with n := depth }

/-- `Step` of R47 for a cycle with `rst = 0`. Every part reads the pre-edge state `s`. The serializer advances when
`s` is busy, and only a state that is not busy lets a serial command write the sequencer, so the two never meet. -/
def runCycle (op : HostOp) (s : State) : State :=
  let p := pollCycle (s.now.pollTick || op.tick) s.cfg s.pins s.qst
  { cfg := s.cfg
    m := op.wr.m
    ser := if s.ser.busy then serAdvance s.cfg s.ser else op.wr.ser
    delay := op.wr.delay
    pins :=
      { a := p.pins.a.atEdge s.now.encA op.wr.pins.a.n
        b := p.pins.b.atEdge s.now.encB op.wr.pins.b.n
        sw := p.pins.sw.atEdge s.now.encSw op.wr.pins.sw.n }
    qst := p.qst
    delta := mergeDelta p.r op.clrD s.delta
    press := mergePress p.pressSet op.clrP s.press
    ovr := op.wr.ovr
    cmderr := op.wr.cmderr
    env := s.env.advance op.rdata }

/-- A read at word address `a`: its data (R291), and for EVENTS_RC the clear of both events (R295). -/
def readOp (a : BitVec 3) (s : State) : HostOp :=
  { wr := s, rdata := readReg s a, clrD := decide (a = 3#3), clrP := decide (a = 3#3) }

/-- A write's operation with the read that goes along with it at the same address when `bus_re = 1` (R305). -/
def HostOp.withRead (op : HostOp) (a : BitVec 3) (s : State) : HostOp :=
  if s.now.busRe then
    { op with rdata := (readOp a s).rdata, clrD := op.clrD || (readOp a s).clrD, clrP := op.clrP || (readOp a s).clrP }
  else op

/-- The result of an instruction or a cycle. -/
abbrev Result := Host.Outcome State Fault Refusal

/-- A cycle in which the host reads at `a` (R290). -/
def readCycle (a : BitVec 3) (s : State) : Result := .next (runCycle (readOp a s) s)

/-- A cycle in which the host writes at `a`, with what the write does in `op`. -/
def writeCycle (a : BitVec 3) (op : HostOp) (s : State) : Result := .next (runCycle (op.withRead a s) s)

/-- A cycle in which the host writes a command to CMD (R299). -/
def commandCycle (op : HostOp) (s : State) : Result := writeCycle 0#3 op s

/-- A cycle without a host access: the parts of R47 that run by themselves. `bus_rdata` is 0 (R291). -/
def idleCycle (s : State) : Result := .next (runCycle { wr := s } s)

/-- A cycle with `rst = 1` (R350): every element takes its reset value; a read still returns data (R290). -/
def resetCycle (s : State) : Result :=
  .next (.resetOf s.cfg (s.env.advance (if s.now.busRe then readReg s s.now.busAddr else 0#32)))

end Sys2Proof.Machine
end

