-- ==== Sys2Proof/Machine/BusReads.lean ====
section
/-! DEFINITION. The meanings of the seven host reads (46_host_bus.md R292 to R298). -/

namespace Sys2Proof.Machine

/-- RD.CMD (R292). -/
def execRdCmd (s : State) : Result := readCycle 0#3 s

/-- RD.STATUS (R293). -/
def execRdStatus (s : State) : Result := readCycle 1#3 s

/-- RD.EVENTS (R294). -/
def execRdEvents (s : State) : Result := readCycle 2#3 s

/-- RD.EVENTS_RC (R295). -/
def execRdEventsRc (s : State) : Result := readCycle 3#3 s

/-- RD.CONFIG (R296). -/
def execRdConfig (s : State) : Result := readCycle 4#3 s

/-- RD.DELAY (R297). -/
def execRdDelay (s : State) : Result := readCycle 5#3 s

/-- RD.RSVD (R298), at address 6 or 7. -/
def execRdRsvd (x : Bool) (s : State) : Result := readCycle (0b11#2 ++ BitVec.ofBool x) s

end Sys2Proof.Machine
end

