-- ==== Sys2Proof/Machine/EventCommands.lean ====
section
/-! DEFINITION. The meanings of POLL (R276), EVCLR (R277) and of an illegal command word (R321). -/

namespace Sys2Proof.Machine

/-- POLL (R276): a poll tick in this cycle, one with the `poll_tick` input or without it (R270). -/
def execPoll (s : State) : Result := commandCycle { wr := s, tick := true } s

/-- EVCLR (R277): clear requests to the merge. -/
def execEvclr (cd cp : Bool) (s : State) : Result := commandCycle { wr := s, clrD := cd, clrP := cp } s

/-- An illegal command word (R321): CmdErr, and nothing else. The word is not recorded. -/
def execIllegal (s : State) : Result := commandCycle { wr := raise .cmdErr s } s

end Sys2Proof.Machine
end

