-- ==== Sys2Proof/Machine/FrameCommands.lean ====
section
/-! DEFINITION. The meanings of the frame-buffer commands NOP, CLEAR, SETPIX and CLRPIX (41_frame_ops.md). Each is
accepted whether BUSY is 0 or 1 (R175). -/

namespace Sys2Proof.Machine

/-- NOP (R174). -/
def execNop (s : State) : Result := commandCycle { wr := s } s

/-- CLEAR (R171): all 2048 flags off at one edge. -/
def execClear (s : State) : Result := commandCycle { wr := { s with m := .off } } s

/-- SETPIX (R172). -/
def execSetpix (row col : BitVec 5) (pm : BitVec 2) (s : State) : Result :=
  commandCycle { wr := { s with m := s.m.setPixel row col pm } } s

/-- CLRPIX (R173). -/
def execClrpix (row col : BitVec 5) (pm : BitVec 2) (s : State) : Result :=
  commandCycle { wr := { s with m := s.m.clearPixel row col pm } } s

end Sys2Proof.Machine
end

