-- ==== Sys2Proof/Machine/AddressMap.lean ====
section
/-! DEFINITION. The address map and the physical-frame conversion (40_address_map.md R150 to R154). -/

namespace Sys2Proof.Machine

/-- `AM(r, c)`: the channel (R150) and the bit within its bitplane (R151). -/
def addressMap (r c : BitVec 5) : BitVec 4 × BitVec 6 :=
  let ch := r.toNat / 8 + (3 - c.toNat / 8) * 4
  let localRow := r.toNat % 8
  let localCol := 7 - c.toNat % 8
  (BitVec.ofNat 4 ch, BitVec.ofNat 6 (localRow * 8 + localCol))

/-- `AMinv(ch, b)` (R153): the pixel of a bit of a channel's bitplane. -/
def addressMapInv (ch : BitVec 4) (b : BitVec 6) : BitVec 5 × BitVec 5 :=
  let r := 8 * (ch.toNat % 4) + b.toNat / 8
  let c := 8 * (3 - ch.toNat / 4) + (7 - b.toNat % 8)
  (BitVec.ofNat 5 r, BitVec.ofNat 5 c)

/-- The bitplanes of one logical plane. Each bit of a frame is written by exactly one pixel (R153, R154), so each
bit reads the pixel that the inverse map gives it. -/
def toPhysPlane (plane : Vector (BitVec 32) 32) : Vector (BitVec 64) 16 :=
  Vector.ofFn fun ch => bitsOf 64 fun b =>
    let rc := addressMapInv (BitVec.ofNat 4 ch.val) (BitVec.ofNat 6 b)
    flag plane rc.1 rc.2

/-- `ToPhys(M)` (R154): plane A goes to bitplane 0, plane B to bitplane 1. -/
def toPhys (m : Matrix) : Frame where
  p0 := toPhysPlane m.a
  p1 := toPhysPlane m.b

end Sys2Proof.Machine
end

