-- ==== Sys2Proof/Machine/SerialCommands.lean ====
section
/-! DEFINITION. The meanings of the serial commands WRFRAME and DISPCTRL (42_serializer.md R199 to R201, R204). -/

namespace Sys2Proof.Machine

/-- What WRFRAME writes (R199): Overrun while BUSY; otherwise the snapshot and the start of the frame program. -/
def wrframeWrites (s : State) : State :=
  if s.ser.busy then raise .overrun s
  else { s with ser := { s.ser with snap := toPhys s.m }.start s.cfg s.delay .frame }

/-- What DISPCTRL writes (R200): Overrun while BUSY; otherwise the control byte and the start of its program. -/
def dispctrlWrites (on : Bool) (bri : BitVec 3) (s : State) : State :=
  if s.ser.busy then raise .overrun s
  else { s with ser := { s.ser with cb := s.cfg.dispCtrl on bri }.start s.cfg s.delay .ctrl }

/-- WRFRAME (R199). -/
def execWrframe (s : State) : Result := commandCycle { wr := wrframeWrites s } s

/-- DISPCTRL (R200). -/
def execDispctrl (on : Bool) (bri : BitVec 3) (s : State) : Result := commandCycle { wr := dispctrlWrites on bri s } s

end Sys2Proof.Machine
end

