-- ==== Sys2Proof/Machine/BusWrites.lean ====
section
/-! DEFINITION. The meanings of the seven host writes (46_host_bus.md R299 to R304). -/

namespace Sys2Proof.Machine

/-- WR.CMD (R299): decode the word, then the command's own rule runs in this cycle. -/
def execWrCmd (w : Word) (s : State) : Result :=
  match decodeCommand w with
  | .nop => execNop s
  | .clear => execClear s
  | .setpix row col pm => execSetpix row col pm s
  | .clrpix row col pm => execClrpix row col pm s
  | .wrframe => execWrframe s
  | .dispctrl on bri => execDispctrl on bri s
  | .poll => execPoll s
  | .evclr cd cp => execEvclr cd cp s
  | .illegal _ => execIllegal s

/-- WR.STATUS (R300): write 1 to clear OVR (bit 1) and CMDERR (bit 2); every other bit is ignored. -/
def execWrStatus (w : Word) (s : State) : Result :=
  writeCycle 1#3 { wr := acknowledge .cmdErr (w.getLsbD 2) (acknowledge .overrun (w.getLsbD 1) s) } s

/-- WR.EVENTS (R301): ignored. -/
def execWrEvents (s : State) : Result := writeCycle 2#3 { wr := s } s

/-- WR.EVENTS_RC (R301): ignored; only a read clears. -/
def execWrEventsRc (s : State) : Result := writeCycle 3#3 { wr := s } s

/-- WR.CONFIG (R302): each depth field on its own. -/
def execWrConfig (w : Word) (s : State) : Result :=
  writeCycle 4#3 { wr := { s with pins := s.pins.withConfig w } } s

/-- WR.DELAY (R303). -/
def execWrDelay (w : Word) (s : State) : Result :=
  writeCycle 5#3 { wr := { s with delay := warlDelay s.delay (w.extractLsb' 0 16) } } s

/-- WR.RSVD (R304), at address 6 or 7: ignored. -/
def execWrRsvd (x : Bool) (s : State) : Result := writeCycle (0b11#2 ++ BitVec.ofBool x) { wr := s } s

end Sys2Proof.Machine
end

