-- ==== Sys2Proof/Machine/Dispatch.lean ====
section
/-! DEFINITION. One arm per instruction: the cycle in which the host presents it, with `rst = 0`. The cycle's other
inputs (poll tick, pins, a read beside a write) are those of `s.now`. -/

namespace Sys2Proof.Machine

def exec (i : Instr) (s : State) : Host.Outcome State Fault Refusal :=
  match i with
  -- frame-buffer commands
  | .nop => Sys2Proof.Machine.execNop s
  | .clear => Sys2Proof.Machine.execClear s
  | .setpix row col pm => Sys2Proof.Machine.execSetpix row col pm s
  | .clrpix row col pm => Sys2Proof.Machine.execClrpix row col pm s
  -- serial commands
  | .wrframe => Sys2Proof.Machine.execWrframe s
  | .dispctrl on bri => Sys2Proof.Machine.execDispctrl on bri s
  -- event commands and the illegal word
  | .poll => Sys2Proof.Machine.execPoll s
  | .evclr cd cp => Sys2Proof.Machine.execEvclr cd cp s
  | .illegal _ => Sys2Proof.Machine.execIllegal s
  -- host reads
  | .rdCmd => Sys2Proof.Machine.execRdCmd s
  | .rdStatus => Sys2Proof.Machine.execRdStatus s
  | .rdEvents => Sys2Proof.Machine.execRdEvents s
  | .rdEventsRc => Sys2Proof.Machine.execRdEventsRc s
  | .rdConfig => Sys2Proof.Machine.execRdConfig s
  | .rdDelay => Sys2Proof.Machine.execRdDelay s
  | .rdRsvd x => Sys2Proof.Machine.execRdRsvd x s
  -- host writes
  | .wrCmd w => Sys2Proof.Machine.execWrCmd w s
  | .wrStatus w => Sys2Proof.Machine.execWrStatus w s
  | .wrEvents _ => Sys2Proof.Machine.execWrEvents s
  | .wrEventsRc _ => Sys2Proof.Machine.execWrEventsRc s
  | .wrConfig w => Sys2Proof.Machine.execWrConfig w s
  | .wrDelay w => Sys2Proof.Machine.execWrDelay w s
  | .wrRsvd x _ => Sys2Proof.Machine.execWrRsvd x s

end Sys2Proof.Machine
end

