-- ==== Sys2Proof/Machine/Step.lean ====
section
/-! DEFINITION. One step is one rising edge of `clk` (R47): a reset cycle, the instruction the bus presents, or a
cycle without a host access. And how the host's loader places an instruction in the next cycle. -/

namespace Sys2Proof.Machine

/-- `Step(S, in)` of R47, with `in` the inputs of the current cycle. -/
def step (s : State) : Host.Outcome State Fault Refusal :=
  if s.now.rst then resetCycle s
  else
    match fetch s.now with
    | some i => exec i s
    | none => idleCycle s

/-- The state whose next cycle presents the instruction that `w` is in the table's numbering. The pins and `poll_tick`
of that cycle stay as listed; where no cycle is listed, they are those of the test bench before its first statement
(log entry 8). -/
def State.withFetchWord (s : State) (nbits w : Nat) : State :=
  { s with
    env :=
      { s.env with
        inputs := (s.env.inputs.headD benchIdle).withTableWord nbits w :: s.env.inputs.tail } }

end Sys2Proof.Machine
end

