-- ==== Sys2Proof/Safety.lean ====
section
/-! DEFINITION. The terms that claims about FSID use: the invariant of the reachable states, and what a cycle leaves
alone or does by itself whatever the host asks of it. -/

namespace Sys2Proof.Machine

/-- The invariant of every state a run from reset reaches. -/
structure Inv (s : State) : Prop where
  /-- `P_DELAY_RESET` is legal (R6). -/
  param : s.cfg.pDelayReset ≠ 0#16
  /-- DELTA = 10 never occurs (R41). -/
  delta : s.delta ≠ 0b10#2
  /-- Each depth is in 1..64 (R38). -/
  depth : ∀ p : PinId, 1 ≤ (s.pins.get p).n.toNat ∧ (s.pins.get p).n.toNat ≤ 64
  /-- DELAY is in 1..65535 (R39). -/
  delay : s.delay ≠ 0#16
  /-- While BUSY = 0 the lines are idle (R205). -/
  idle : s.ser.busy = false → s.ser.lines = LineEvent.idle
  /-- While BUSY = 1, EIDX is in 0..Last(KIND) (R33), -/
  index : s.ser.busy = true → s.ser.eidx.toNat ≤ s.ser.kind.last
  /-- WCNT is in 1..DL (R33), -/
  count : s.ser.busy = true → 1 ≤ s.ser.wcnt.toNat ∧ s.ser.wcnt.toNat ≤ s.ser.dl.toNat
  /-- and the lines carry the event EIDX of the program being sent (R208). -/
  event : s.ser.busy = true → s.ser.event s.cfg s.ser.kind s.ser.eidx.toNat = some s.ser.lines

/-- What a cycle without reset does to the elements that no host access writes: the synchronizers (R44), the history,
level and decoder state that a poll tick changes (R272), and DELTA and PRESS by the merge (R275), for a poll tick
`tick` and the clear requests `clrD`, `clrP`. The parameters stay. -/
structure OwnParts (tick clrD clrP : Bool) (s t : State) : Prop where
  cfg : t.cfg = s.cfg
  sync1 : ∀ p : PinId, (t.pins.get p).sync1 = s.now.pin p
  sync2 : ∀ p : PinId, (t.pins.get p).sync2 = (s.pins.get p).sync1
  hist : ∀ p : PinId, (t.pins.get p).hist = ((pollCycle tick s.cfg s.pins s.qst).pins.get p).hist
  lvl : ∀ p : PinId, (t.pins.get p).lvl = ((pollCycle tick s.cfg s.pins s.qst).pins.get p).lvl
  qst : t.qst = (pollCycle tick s.cfg s.pins s.qst).qst
  delta : t.delta = mergeDelta (pollCycle tick s.cfg s.pins s.qst).r clrD s.delta
  press : t.press = mergePress (pollCycle tick s.cfg s.pins s.qst).pressSet clrP s.press

/-- The serializer does only what it does by itself: it advances where BUSY was set and stays as it was otherwise. -/
def SerGoesOn (s t : State) : Prop := t.ser = serCycle s.cfg s.ser

/-- DELAY and the three depths are unchanged. -/
def RegsKept (s t : State) : Prop := t.delay = s.delay ∧ ∀ p : PinId, (t.pins.get p).n = (s.pins.get p).n

/-- Both sticky bits are unchanged. -/
def StickyKept (s t : State) : Prop := t.ovr = s.ovr ∧ t.cmderr = s.cmderr

/-- Every flag of the matrix is unchanged. -/
def MatrixKept (s t : State) : Prop :=
  ∀ r c : BitVec 5, flag t.m.a r c = flag s.m.a r c ∧ flag t.m.b r c = flag s.m.b r c

/-- Everything a host access may write is unchanged but for the serializer's own advance. -/
def HostKept (s t : State) : Prop := MatrixKept s t ∧ SerGoesOn s t ∧ RegsKept s t ∧ StickyKept s t

/-- The inputs of the cycle `j` cycles from now: as listed, and a free value past the list. -/
def State.inputAt (s : State) (j : Nat) : CycleIn :=
  if h : j < s.env.inputs.length then s.env.inputs[j]
  else Config.freeInput (s.env.drawn + (j - s.env.inputs.length))

end Sys2Proof.Machine
end

