-- ==== Sys2Proof/Certificates/Slice0/Obligations.lean ====
section
/-! DEFINITION. The statements about FSID for the provers, in the order of OBLIGATIONS.json. Each is about every state
and every operand, and so about every value of the parameters (R6), which `State.cfg` holds. -/

open Sys2Proof Sys2Proof.Machine

/-! ## Encoding -/

/-- The bytes that the encoder gives a well-formed instruction decode to that instruction, with every operand at every
value its field admits (R115, R117, R119; the byte layout itself is the model's, log entry 5). -/
def Obligations.DecodeInvertsEncode : Prop :=
  ∀ i : Instr, i.wf = true → decode (encode i) = .ok i

/-- R115: a word matches a row when (word AND mask) equals match, and the decoder gives exactly the rows' mnemonics,
with the operand fields of R112 to R114; a word that matches no row is ILLEGAL. -/
def Obligations.CommandDecodeFollowsMatchAndMask : Prop :=
  ∀ w : Word,
    (w &&& 0xFFFFFFFF#32 = 0x00000000#32 ↔ decodeCommand w = .nop) ∧
    (w &&& 0xFFFFFFFF#32 = 0x10000000#32 ↔ decodeCommand w = .clear) ∧
    (w &&& 0xFFFFF000#32 = 0x20000000#32 ↔
      decodeCommand w = .setpix (w.extractLsb' 0 5) (w.extractLsb' 5 5) (w.extractLsb' 10 2)) ∧
    (w &&& 0xFFFFF000#32 = 0x30000000#32 ↔
      decodeCommand w = .clrpix (w.extractLsb' 0 5) (w.extractLsb' 5 5) (w.extractLsb' 10 2)) ∧
    (w &&& 0xFFFFFFFF#32 = 0x40000000#32 ↔ decodeCommand w = .wrframe) ∧
    (w &&& 0xFFFFFFF0#32 = 0x50000000#32 ↔ decodeCommand w = .dispctrl (w.getLsbD 3) (w.extractLsb' 0 3)) ∧
    (w &&& 0xFFFFFFFF#32 = 0x60000000#32 ↔ decodeCommand w = .poll) ∧
    (w &&& 0xFFFFFFFC#32 = 0x70000000#32 ↔ decodeCommand w = .evclr (w.getLsbD 0) (w.getLsbD 1)) ∧
    (decodeCommand w = .illegal w ↔
      w &&& 0xFFFFFFFF#32 ≠ 0x00000000#32 ∧ w &&& 0xFFFFFFFF#32 ≠ 0x10000000#32 ∧
      w &&& 0xFFFFF000#32 ≠ 0x20000000#32 ∧ w &&& 0xFFFFF000#32 ≠ 0x30000000#32 ∧
      w &&& 0xFFFFFFFF#32 ≠ 0x40000000#32 ∧ w &&& 0xFFFFFFF0#32 ≠ 0x50000000#32 ∧
      w &&& 0xFFFFFFFF#32 ≠ 0x60000000#32 ∧ w &&& 0xFFFFFFFC#32 ≠ 0x70000000#32)

/-- R116, R321: which command words are illegal; and an illegal word sets CMDERR, whether BUSY is 0 or 1, and does
nothing else in its cycle's command part: it changes no matrix flag, starts no transaction, makes no poll tick of its
own, clears no event and raises no Overrun. -/
def Obligations.IllegalWordSetsCmdErrOnly : Prop :=
  ∀ (w : Word) (s : State),
    (decodeCommand w = .illegal w ↔
      8 ≤ (w.extractLsb' 28 4).toNat ∨
      ((w.extractLsb' 28 4).toNat ∈ [0, 1, 4, 6] ∧ w.extractLsb' 0 28 ≠ 0#28) ∨
      ((w.extractLsb' 28 4).toNat ∈ [2, 3] ∧ w.extractLsb' 12 16 ≠ 0#16) ∨
      ((w.extractLsb' 28 4).toNat = 5 ∧ w.extractLsb' 4 24 ≠ 0#24) ∨
      ((w.extractLsb' 28 4).toNat = 7 ∧ w.extractLsb' 2 26 ≠ 0#26)) ∧
    (∃ t, exec (.illegal w) s = .next t ∧ t.cmderr = true ∧ t.ovr = s.ovr ∧ MatrixKept s t ∧ SerGoesOn s t ∧
      RegsKept s t ∧ OwnParts s.now.pollTick false false s t ∧ t.env = s.env.advance 0#32) ∧
    (decodeCommand w = .illegal w → exec (.wrCmd w) s = exec (.illegal w) s)

/-- Command words of 95_test_vectors.md V-D, written out, decode to the command they stand for; and the sixteen bus
descriptors of R119 decode to their operations. That a write's descriptor alone carries the data word 0 is no rule of
the spec: it is the model's choice for the opcode table's numbering, which gives that word no bits (DESIGN CHOICE, log
entry 5). -/
def Obligations.WrittenOutWordsDecode : Prop :=
  decodeTableWord 32 0x00000000 = some .nop ∧
  decodeTableWord 32 0x10000000 = some .clear ∧
  decodeTableWord 32 0x20000D45 = some (.setpix 5#5 10#5 0b11#2) ∧
  decodeTableWord 32 0x20000BFF = some (.setpix 31#5 31#5 0b10#2) ∧
  decodeTableWord 32 0x30000C00 = some (.clrpix 0#5 0#5 0b11#2) ∧
  decodeTableWord 32 0x40000000 = some .wrframe ∧
  decodeTableWord 32 0x50000007 = some (.dispctrl false 7#3) ∧
  decodeTableWord 32 0x60000000 = some .poll ∧
  decodeTableWord 32 0x70000002 = some (.evclr false true) ∧
  decodeTableWord 32 0x20001000 = some (.illegal 0x20001000#32) ∧
  decodeTableWord 32 0x80000000 = some (.illegal 0x80000000#32) ∧
  (List.range 16).map (decodeTableWord 8) =
    [some .rdCmd, some .rdStatus, some .rdEvents, some .rdEventsRc, some .rdConfig, some .rdDelay, some (.rdRsvd false),
     some (.rdRsvd true), some (.wrCmd 0), some (.wrStatus 0), some (.wrEvents 0), some (.wrEventsRc 0),
     some (.wrConfig 0), some (.wrDelay 0), some (.wrRsvd false 0), some (.wrRsvd true 0)]

/-! ## The step, reset and the invariant -/

/-- A step runs the instruction that the current cycle's bus signals present: step at that state is exec of it. -/
def Obligations.StepRunsThePresentedInstruction : Prop :=
  ∀ (s : State) (i : Instr), i.wf = true → s.now.presents i = true → step s = exec i s

/-- R299: WR.CMD (descriptor 1000) decodes its word, and the command's own rule runs in this cycle, for an illegal word
that of CmdErr; it completes in every state. -/
def Obligations.WrCmdRunsTheDecodedCommand : Prop :=
  (∀ w : Word, decodeOperation 0b1000#4 w = .wrCmd w) ∧
  ∀ (s : State) (w : Word), ∃ t, exec (.wrCmd w) s = .next t ∧ exec (decodeCommand w).toInstr s = .next t

/-- R30, R350: a cycle with `rst = 1` gives every element its reset value, whatever else the cycle's inputs are; a read
in it still returns data, and the parameters stay. -/
def Obligations.ResetCycleWritesEveryElement : Prop :=
  ∀ s : State, s.now.rst = true →
    ∃ t, step s = .next t ∧
      (∀ r c : BitVec 5, flag t.m.a r c = false ∧ flag t.m.b r c = false) ∧
      (∀ (ch : BitVec 4) (p : BitVec 1), t.ser.snap.plane ch p = 0#64) ∧
      t.ser.busy = false ∧ t.ser.kind = .frame ∧ t.ser.eidx = 0#9 ∧ t.ser.wcnt = 0#16 ∧ t.ser.dl = 0#16 ∧
      t.ser.cb = 0#8 ∧ t.ser.lines = { clk := true, data := 0xFFFF#16 } ∧
      t.delay = s.cfg.pDelayReset ∧
      (∀ p : PinId,
        (t.pins.get p).n = 64#7 ∧
        (t.pins.get p).sync1 = s.cfg.pPinResetLevel ∧ (t.pins.get p).sync2 = s.cfg.pPinResetLevel ∧
        (t.pins.get p).lvl = s.cfg.pPinResetLevel ∧
        ∀ j, j < 64 → (t.pins.get p).hist.getLsbD j = s.cfg.pPinResetLevel) ∧
      t.qst = .start ∧ t.delta = 0#2 ∧ t.press = false ∧ t.ovr = false ∧ t.cmderr = false ∧
      t.cfg = s.cfg ∧ t.env = s.env.advance (if s.now.busRe then readReg s s.now.busAddr else 0#32)

/-- The read values of all eight word addresses right after reset, for the default parameters, as R81 gives them with
R37 and R38, and the idle serializer. DELAY reads `P_DELAY_RESET`, whose value in `State.reset` is the model's choice
(log entry 2), so the read is stated by that parameter and not by a number. -/
def Obligations.ResetStateReadValues : Prop :=
  readReg State.reset 0#3 = 0x00000000#32 ∧ readReg State.reset 1#3 = 0x00000000#32 ∧
  readReg State.reset 2#3 = 0x00000700#32 ∧ readReg State.reset 3#3 = 0x00000700#32 ∧
  readReg State.reset 4#3 = 0x00404040#32 ∧
  readReg State.reset 5#3 = State.reset.cfg.pDelayReset.setWidth 32 ∧
  readReg State.reset 6#3 = 0x00000000#32 ∧ readReg State.reset 7#3 = 0x00000000#32 ∧
  State.reset.delay = State.reset.cfg.pDelayReset ∧
  State.reset.ser.busy = false ∧ State.reset.dispClk = true ∧ State.reset.dispData = 0xFFFF#16

/-- The invariant holds right after reset. Its clause on `P_DELAY_RESET` rests on the model's choice (log entry 2). -/
def Obligations.InvariantHoldsAtReset : Prop := Inv State.reset

/-- Every step keeps the invariant: DELTA is never 10 (R41), depths and DELAY stay legal (R38, R39), the lines are idle
while BUSY = 0 (R205), and while BUSY = 1 EIDX and WCNT are in range (R33) and the lines carry the event EIDX of the
program being sent (R208). -/
def Obligations.EveryStepKeepsTheInvariant : Prop :=
  ∀ s t : State, Inv s → step s = .next t → Inv t

/-- R47, R291: a cycle without reset and without a host access changes only what the poll part, the synchronizers, the
merge and the serializer's advance change; `bus_rdata` is 0. -/
def Obligations.IdleCycleRunsOnlyItsOwnParts : Prop :=
  ∀ s : State, s.now.rst = false → s.now.busWe = false → s.now.busRe = false →
    ∃ t, step s = .next t ∧ HostKept s t ∧ OwnParts s.now.pollTick false false s t ∧ t.env = s.env.advance 0#32

/-! ## Frame-buffer commands -/

/-- R174: NOP, word 0x0000_0000, changes nothing but what the cycle's other parts write. -/
def Obligations.NopLeavesEverythingToTheCycle : Prop :=
  decodeCommand 0x00000000#32 = .nop ∧
  ∀ s : State,
    ∃ t, exec .nop s = .next t ∧ HostKept s t ∧ OwnParts s.now.pollTick false false s t ∧ t.env = s.env.advance 0#32

/-- R171: CLEAR, word 0x1000_0000, sets every flag to off, whether BUSY is 0 or 1; nothing else changes but by the
cycle's other parts. -/
def Obligations.ClearTurnsEveryFlagOff : Prop :=
  decodeCommand 0x10000000#32 = .clear ∧
  ∀ s : State,
    ∃ t, exec .clear s = .next t ∧
      (∀ r c : BitVec 5, flag t.m.a r c = false ∧ flag t.m.b r c = false) ∧
      SerGoesOn s t ∧ RegsKept s t ∧ StickyKept s t ∧ OwnParts s.now.pollTick false false s t ∧
      t.env = s.env.advance 0#32

/-- R172, in the encoding of R112: SETPIX ORs the selected plane flags of one pixel on and leaves every other flag;
whether BUSY is 0 or 1. -/
def Obligations.SetpixOrsTheSelectedFlags : Prop :=
  (∀ (row col : BitVec 5) (pm : BitVec 2),
    decodeCommand (0x2#4 ++ 0#16 ++ pm ++ col ++ row) = .setpix row col pm) ∧
  ∀ (s : State) (row col : BitVec 5) (pm : BitVec 2),
    ∃ t, exec (.setpix row col pm) s = .next t ∧
      (∀ r c : BitVec 5,
        flag t.m.a r c = (if r = row ∧ c = col then flag s.m.a r c || pm.getLsbD 0 else flag s.m.a r c) ∧
        flag t.m.b r c = (if r = row ∧ c = col then flag s.m.b r c || pm.getLsbD 1 else flag s.m.b r c)) ∧
      SerGoesOn s t ∧ RegsKept s t ∧ StickyKept s t ∧ OwnParts s.now.pollTick false false s t ∧
      t.env = s.env.advance 0#32

/-- R173, in the encoding of R112: CLRPIX turns the selected plane flags of one pixel off and leaves every other flag;
whether BUSY is 0 or 1. -/
def Obligations.ClrpixTurnsTheSelectedFlagsOff : Prop :=
  (∀ (row col : BitVec 5) (pm : BitVec 2),
    decodeCommand (0x3#4 ++ 0#16 ++ pm ++ col ++ row) = .clrpix row col pm) ∧
  ∀ (s : State) (row col : BitVec 5) (pm : BitVec 2),
    ∃ t, exec (.clrpix row col pm) s = .next t ∧
      (∀ r c : BitVec 5,
        flag t.m.a r c = (if r = row ∧ c = col then flag s.m.a r c && !pm.getLsbD 0 else flag s.m.a r c) ∧
        flag t.m.b r c = (if r = row ∧ c = col then flag s.m.b r c && !pm.getLsbD 1 else flag s.m.b r c)) ∧
      SerGoesOn s t ∧ RegsKept s t ∧ StickyKept s t ∧ OwnParts s.now.pollTick false false s t ∧
      t.env = s.env.advance 0#32

/-- R170: the only writers of the matrix are CLEAR, SETPIX, CLRPIX and reset. -/
def Obligations.MatrixHasOnlyItsFourWriters : Prop :=
  ∀ s t : State, step s = .next t → t.m ≠ s.m →
    s.now.rst = true ∨
    (s.now.busWe = true ∧ s.now.busAddr = 0#3 ∧
      (decodeCommand s.now.busWdata = .clear ∨
        ∃ row col pm, decodeCommand s.now.busWdata = .setpix row col pm ∨
          decodeCommand s.now.busWdata = .clrpix row col pm))

/-! ## Address map and physical frame -/

/-- R150, R151: the channel and the bit of every pixel. -/
def Obligations.AddressMapFollowsTheWiringRule : Prop :=
  ∀ r c : BitVec 5,
    (addressMap r c).1.toNat = r.toNat / 8 + (3 - c.toNat / 8) * 4 ∧
    (addressMap r c).2.toNat = (r.toNat % 8) * 8 + (7 - c.toNat % 8)

/-- R153: the map is a bijection of the 1024 pixels onto the 1024 (channel, bit) pairs, with the inverse R153 gives. -/
def Obligations.AddressMapIsABijection : Prop :=
  (∀ r c : BitVec 5, addressMapInv (addressMap r c).1 (addressMap r c).2 = (r, c)) ∧
  (∀ (ch : BitVec 4) (b : BitVec 6), addressMap (addressMapInv ch b).1 (addressMapInv ch b).2 = (ch, b)) ∧
  (∀ (ch : BitVec 4) (b : BitVec 6),
    (addressMapInv ch b).1.toNat = 8 * (ch.toNat % 4) + b.toNat / 8 ∧
    (addressMapInv ch b).2.toNat = 8 * (3 - ch.toNat / 4) + (7 - b.toNat % 8))

/-- R154: the flag of every pixel stands at the mapped bit of bitplane 0 (plane A) or 1 (plane B), and every bit of the
frame is some pixel's flag. -/
def Obligations.ToPhysCarriesEveryFlag : Prop :=
  ∀ m : Matrix,
    (∀ r c : BitVec 5,
      ((toPhys m).plane (addressMap r c).1 0#1).getLsbD (addressMap r c).2.toNat = flag m.a r c ∧
      ((toPhys m).plane (addressMap r c).1 1#1).getLsbD (addressMap r c).2.toNat = flag m.b r c) ∧
    (∀ (ch : BitVec 4) (b : BitVec 6), ∃ r c : BitVec 5, addressMap r c = (ch, b))

/-- R155: a matrix whose only lit flags are at one pixel gives a frame whose only set bits are at that pixel's mapped
bit, in the planes lit; a matrix with no lit flag gives the zero frame. -/
def Obligations.OnePixelGivesOneFrameBit : Prop :=
  ∀ (m : Matrix) (row col : BitVec 5) (pa pb : Bool),
    (∀ r c : BitVec 5,
      flag m.a r c = (pa && decide (r = row ∧ c = col)) ∧ flag m.b r c = (pb && decide (r = row ∧ c = col))) →
    ∀ (ch : BitVec 4) (b : BitVec 6),
      ((toPhys m).plane ch 0#1).getLsbD b.toNat = (pa && decide (addressMap row col = (ch, b))) ∧
      ((toPhys m).plane ch 1#1).getLsbD b.toNat = (pb && decide (addressMap row col = (ch, b)))

/-- R157: in a frame program the plane-A flag of a pixel is on its channel's line in the three events of payload
bit-tick `b`, and its plane-B flag in those of bit-tick `64 + b`. -/
def Obligations.EveryPixelGoesOutAtItsPayloadTick : Prop :=
  ∀ (cfg : Config) (m : Matrix) (r c : BitVec 5) (j : Nat), j < 3 →
    ∃ ea eb : LineEvent,
      (frameProgram cfg (toPhys m))[55 + 3 * (addressMap r c).2.toNat + j]? = some ea ∧
      ea.clk = decide (j = 1) ∧ ea.data.getLsbD (addressMap r c).1.toNat = flag m.a r c ∧
      (frameProgram cfg (toPhys m))[55 + 3 * (64 + (addressMap r c).2.toNat) + j]? = some eb ∧
      eb.clk = decide (j = 1) ∧ eb.data.getLsbD (addressMap r c).1.toNat = flag m.b r c

/-! ## Serializer -/

/-- R192 to R195: START, STOP, BIT and BYTE as event lists. -/
def Obligations.FramingAndBitTickEvents : Prop :=
  startSeq = [⟨true, 0x0000#16⟩, ⟨false, 0x0000#16⟩] ∧
  stopSeq = [⟨false, 0x0000#16⟩, ⟨true, 0x0000#16⟩, ⟨true, 0xFFFF#16⟩] ∧
  (∀ v : BitVec 16, bitTick v = [⟨false, v⟩, ⟨true, v⟩, ⟨false, v⟩]) ∧
  (∀ b : Byte, byteSeq b =
    bitTick (if b.getLsbD 0 then 0xFFFF#16 else 0#16) ++ bitTick (if b.getLsbD 1 then 0xFFFF#16 else 0#16) ++
    bitTick (if b.getLsbD 2 then 0xFFFF#16 else 0#16) ++ bitTick (if b.getLsbD 3 then 0xFFFF#16 else 0#16) ++
    bitTick (if b.getLsbD 4 then 0xFFFF#16 else 0#16) ++ bitTick (if b.getLsbD 5 then 0xFFFF#16 else 0#16) ++
    bitTick (if b.getLsbD 6 then 0xFFFF#16 else 0#16) ++ bitTick (if b.getLsbD 7 then 0xFFFF#16 else 0#16))

/-- R196, R207: lane `ch` of payload bit-tick `k` carries `F[ch][k div 64][k mod 64]`, for all 16 lanes. -/
def Obligations.PayloadLaneCarriesItsBit : Prop :=
  ∀ (f : Frame) (k : Nat), k < 128 → ∀ ch : BitVec 4,
    (payloadVector f k).getLsbD ch.toNat = (f.plane ch (if k < 64 then 0#1 else 1#1)).getLsbD (k % 64)

/-- R197: the full-frame program is 442 events with the content of the table of R197. -/
def Obligations.FrameProgramFollowsItsTable : Prop :=
  ∀ (cfg : Config) (snap : Frame),
    let ev := fun e : Nat => (frameProgram cfg snap)[e]?
    (frameProgram cfg snap).length = 442 ∧ Kind.last .frame = 441 ∧
    ev 0 = some ⟨true, 0#16⟩ ∧ ev 1 = some ⟨false, 0#16⟩ ∧
    (∀ i, i < 8 →
      ev (2 + 3 * i) = some ⟨false, broadcast (cfg.pCmdData.getLsbD i)⟩ ∧
      ev (3 + 3 * i) = some ⟨true, broadcast (cfg.pCmdData.getLsbD i)⟩ ∧
      ev (4 + 3 * i) = some ⟨false, broadcast (cfg.pCmdData.getLsbD i)⟩) ∧
    ev 26 = some ⟨false, 0#16⟩ ∧ ev 27 = some ⟨true, 0#16⟩ ∧ ev 28 = some ⟨true, 0xFFFF#16⟩ ∧
    ev 29 = some ⟨true, 0#16⟩ ∧ ev 30 = some ⟨false, 0#16⟩ ∧
    (∀ i, i < 8 →
      ev (31 + 3 * i) = some ⟨false, broadcast (cfg.pCmdAddr.getLsbD i)⟩ ∧
      ev (32 + 3 * i) = some ⟨true, broadcast (cfg.pCmdAddr.getLsbD i)⟩ ∧
      ev (33 + 3 * i) = some ⟨false, broadcast (cfg.pCmdAddr.getLsbD i)⟩) ∧
    (∀ k, k < 128 →
      ev (55 + 3 * k) = some ⟨false, payloadVector snap k⟩ ∧
      ev (56 + 3 * k) = some ⟨true, payloadVector snap k⟩ ∧
      ev (57 + 3 * k) = some ⟨false, payloadVector snap k⟩) ∧
    ev 439 = some ⟨false, 0#16⟩ ∧ ev 440 = some ⟨true, 0#16⟩ ∧ ev 441 = some ⟨true, 0xFFFF#16⟩

/-- R198: the display-control program is 29 events: START, the eight bit-ticks of CB, STOP. -/
def Obligations.ControlProgramFollowsItsTable : Prop :=
  ∀ cb : Byte,
    let ev := fun e : Nat => (ctrlProgram cb)[e]?
    (ctrlProgram cb).length = 29 ∧ Kind.last .ctrl = 28 ∧
    ev 0 = some ⟨true, 0#16⟩ ∧ ev 1 = some ⟨false, 0#16⟩ ∧
    (∀ i, i < 8 →
      ev (2 + 3 * i) = some ⟨false, broadcast (cb.getLsbD i)⟩ ∧
      ev (3 + 3 * i) = some ⟨true, broadcast (cb.getLsbD i)⟩ ∧
      ev (4 + 3 * i) = some ⟨false, broadcast (cb.getLsbD i)⟩) ∧
    ev 26 = some ⟨false, 0#16⟩ ∧ ev 27 = some ⟨true, 0#16⟩ ∧ ev 28 = some ⟨true, 0xFFFF#16⟩

/-- R199, R201: a WRFRAME with BUSY = 0 takes the snapshot of the matrix of its own cycle and starts the frame program:
BUSY, KIND = FRAME, EIDX = 0, the latched DELAY, and the first START event on the lines. CB stays. -/
def Obligations.WrframeStartsTheFrameProgram : Prop :=
  decodeCommand 0x40000000#32 = .wrframe ∧
  ∀ s : State, s.ser.busy = false →
    ∃ t, exec .wrframe s = .next t ∧
      t.ser.snap = toPhys s.m ∧ t.ser.busy = true ∧ t.ser.kind = .frame ∧ t.ser.eidx = 0#9 ∧
      t.ser.dl = s.delay ∧ t.ser.wcnt = s.delay ∧ t.ser.lines = ⟨true, 0x0000#16⟩ ∧ t.ser.cb = s.ser.cb ∧
      MatrixKept s t ∧ RegsKept s t ∧ StickyKept s t ∧ OwnParts s.now.pollTick false false s t ∧
      t.env = s.env.advance 0#32

/-- R200, R201: a DISPCTRL with BUSY = 0 latches its control byte and starts the control program; SNAP is not
touched. -/
def Obligations.DispctrlStartsTheControlProgram : Prop :=
  (∀ (on : Bool) (bri : BitVec 3),
    decodeCommand (0x5#4 ++ 0#24 ++ BitVec.ofBool on ++ bri) = .dispctrl on bri) ∧
  ∀ (s : State) (on : Bool) (bri : BitVec 3), s.ser.busy = false →
    ∃ t, exec (.dispctrl on bri) s = .next t ∧
      t.ser.cb = s.cfg.dispCtrl on bri ∧ t.ser.busy = true ∧ t.ser.kind = .ctrl ∧ t.ser.eidx = 0#9 ∧
      t.ser.dl = s.delay ∧ t.ser.wcnt = s.delay ∧ t.ser.lines = ⟨true, 0x0000#16⟩ ∧ t.ser.snap = s.ser.snap ∧
      MatrixKept s t ∧ RegsKept s t ∧ StickyKept s t ∧ OwnParts s.now.pollTick false false s t ∧
      t.env = s.env.advance 0#32

/-- R204, R322: a WRFRAME or DISPCTRL with BUSY = 1 is dropped: it sets OVR, and the transaction in progress goes on
unchanged. -/
def Obligations.SerialCommandWhileBusyIsDropped : Prop :=
  ∀ (s : State) (i : Instr), s.ser.busy = true → (i = .wrframe ∨ ∃ on bri, i = .dispctrl on bri) →
    ∃ t, exec i s = .next t ∧ t.ovr = true ∧ t.cmderr = s.cmderr ∧ MatrixKept s t ∧ SerGoesOn s t ∧ RegsKept s t ∧
      OwnParts s.now.pollTick false false s t ∧ t.env = s.env.advance 0#32

/-- R202: in every cycle without reset that finds BUSY = 1, whatever the host does in it, the serializer holds the
current event while WCNT > 1, then ends the transaction after the last event or emits the next one. -/
def Obligations.SerializerAdvancesInEveryBusyCycle : Prop :=
  ∀ s t : State, s.ser.busy = true → s.now.rst = false → step s = .next t →
    (1 < s.ser.wcnt.toNat → t.ser = { s.ser with wcnt := s.ser.wcnt - 1#16 }) ∧
    (s.ser.wcnt.toNat ≤ 1 → s.ser.eidx.toNat = s.ser.kind.last → t.ser = { s.ser with busy := false }) ∧
    (s.ser.wcnt.toNat ≤ 1 → s.ser.eidx.toNat < s.ser.kind.last →
      t.ser.eidx.toNat = s.ser.eidx.toNat + 1 ∧ t.ser.wcnt = s.ser.dl ∧
      s.ser.event s.cfg s.ser.kind (s.ser.eidx.toNat + 1) = some t.ser.lines ∧
      t.ser.busy = true ∧ t.ser.snap = s.ser.snap ∧ t.ser.kind = s.ser.kind ∧ t.ser.dl = s.ser.dl ∧
      t.ser.cb = s.ser.cb)

/-- R209: let a serial command be accepted in a cycle with `D = DELAY`, and let no reset come in the next cycles. Then
event `e` is on the lines for exactly `D` cycles, from `e*D` cycles after the acceptance on, STATUS.BUSY reads 1 for
`N*D` cycles and 0 in the next one, with `N` = 442 for WRFRAME and 29 for DISPCTRL, whatever the host does meanwhile;
and what a WRFRAME sends is the matrix of its acceptance cycle (R89). -/
def Obligations.TransactionTakesItsEventsTimesDelay : Prop :=
  ∀ (s u : State) (i : Instr) (events : List LineEvent) (k : Nat),
    s.ser.busy = false → s.delay ≠ 0#16 → exec i s = .next u →
    ((i = .wrframe ∧ events = frameProgram s.cfg (toPhys s.m)) ∨
      ∃ on bri, i = .dispctrl on bri ∧ events = ctrlProgram (s.cfg.dispCtrl on bri)) →
    k ≤ events.length * s.delay.toNat → (∀ j, j < k → (u.inputAt j).rst = false) →
    (i = .wrframe → events.length = 442) ∧ (i ≠ .wrframe → events.length = 29) ∧
    ∃ t, Host.Core.run Sys2Proof.core k u = .next t ∧
      t.statusWord.getLsbD 0 = decide (k < events.length * s.delay.toNat) ∧
      (k < events.length * s.delay.toNat →
        t.ser.eidx.toNat = k / s.delay.toNat ∧
        events[k / s.delay.toNat]? = some { clk := t.dispClk, data := t.dispData })

/-- R32: SNAP changes only by an accepted WRFRAME, which makes it ToPhys of the matrix, and by reset. -/
def Obligations.SnapshotChangesOnlyByWrframe : Prop :=
  ∀ s t : State, step s = .next t → t.ser.snap ≠ s.ser.snap →
    s.now.rst = true ∨
    (s.now.busWe = true ∧ s.now.busAddr = 0#3 ∧ decodeCommand s.now.busWdata = .wrframe ∧ s.ser.busy = false ∧
      t.ser.snap = toPhys s.m)

/-! ## Quadrature decoder -/

/-- R232: a decoder step takes the table's next state, and its tick is -1 for the tag CW, +1 for CCW, 0 otherwise; for
every table. -/
def Obligations.DecoderStepFollowsTheTable : Prop :=
  ∀ (cfg : Config) (q : QState) (i : BitVec 2),
    (qDecode cfg q i).1 = (cfg.qEntry q i).next ∧
    ((cfg.qEntry q i).tag = .cw → (qDecode cfg q i).2 = -1) ∧
    ((cfg.qEntry q i).tag = .ccw → (qDecode cfg q i).2 = 1) ∧
    ((cfg.qEntry q i).tag = .none → (qDecode cfg q i).2 = 0)

/-- R231, R235: how the spec's default table is built, its six construction facts in R231's order. The input that stays
the same keeps the state; one step forward along a path advances the state; one step back returns to the previous state
of that path; an input that differs from the state's own level pair in both bits goes to ILLEGAL; ILLEGAL leaves only
for START, on 11; and only the last step of each full path carries a tag. The entries named are all 32 of the table. -/
def Obligations.DefaultTableIsBuiltAsStated : Prop :=
  ∀ cfg : Config, cfg.qTable = defaultQTable →
    (∀ (q : QState) (own : BitVec 2),
      (q, own) ∈ [(QState.start, 0b11#2), (.cw1, 0b01#2), (.cw2, 0b00#2), (.cw3, 0b10#2), (.ccw1, 0b10#2),
        (.ccw2, 0b00#2), (.ccw3, 0b01#2)] →
      (cfg.qEntry q own).next = q ∧ (cfg.qEntry q (~~~own)).next = .illegal) ∧
    (∀ (q : QState) (i : BitVec 2) (q' : QState),
      (q, i, q') ∈ [(QState.start, 0b01#2, QState.cw1), (.cw1, 0b00#2, .cw2), (.cw2, 0b10#2, .cw3),
        (.cw3, 0b11#2, .start), (.start, 0b10#2, .ccw1), (.ccw1, 0b00#2, .ccw2), (.ccw2, 0b01#2, .ccw3),
        (.ccw3, 0b11#2, .start)] →
      (cfg.qEntry q i).next = q') ∧
    (∀ (q : QState) (i : BitVec 2) (q' : QState),
      (q, i, q') ∈ [(QState.cw1, 0b11#2, QState.start), (.cw2, 0b01#2, .cw1), (.cw3, 0b00#2, .cw2),
        (.ccw1, 0b11#2, .start), (.ccw2, 0b10#2, .ccw1), (.ccw3, 0b00#2, .ccw2)] →
      (cfg.qEntry q i).next = q') ∧
    (∀ i : BitVec 2, cfg.qEntry .illegal i = if i = 0b11#2 then ⟨.start, .none⟩ else ⟨.illegal, .none⟩) ∧
    (∀ (q : QState) (i : BitVec 2),
      ((cfg.qEntry q i).tag = .cw ↔ q = .cw3 ∧ i = 0b11#2) ∧
      ((cfg.qEntry q i).tag = .ccw ↔ q = .ccw3 ∧ i = 0b11#2))

/-- R234 for the spec's default table: the canonical clockwise sequence gives ticks 0, 0, 0, -1 and ends in START, the
reverse gives 0, 0, 0, +1, and a sequence that goes back to START part-way gives no tick. -/
def Obligations.OneTickPerDetent : Prop :=
  ∀ cfg : Config, cfg.qTable = defaultQTable →
    let run := fun inputs : List (BitVec 2) =>
      inputs.foldl (fun (acc : QState × List Int) i => ((qDecode cfg acc.1 i).1, acc.2 ++ [(qDecode cfg acc.1 i).2]))
        (QState.start, [])
    run [1#2, 0#2, 2#2, 3#2] = (.start, [0, 0, 0, -1]) ∧
    run [2#2, 0#2, 1#2, 3#2] = (.start, [0, 0, 0, 1]) ∧
    run [1#2, 3#2] = (.start, [0, 0]) ∧
    run [1#2, 0#2, 1#2, 3#2] = (.start, [0, 0, 0, 0])

/-- R236: only the decoder, called in a poll tick with an edge on phase A or B (R273), and reset write QST. -/
def Obligations.DecoderStateChangesOnlyOnAnEdge : Prop :=
  ∀ s t : State, step s = .next t → t.qst ≠ s.qst →
    s.now.rst = true ∨
    ((s.now.pollTick = true ∨
        (s.now.busWe = true ∧ s.now.busAddr = 0#3 ∧ decodeCommand s.now.busWdata = .poll)) ∧
      ((debounce s.pins.a s.pins.a.sync2).edge ≠ .none ∨ (debounce s.pins.b s.pins.b.sync2).edge ≠ .none))

/-! ## Synchronizers and debounce filters -/

/-- R44: at every edge not in reset, SYNC1 takes the pin's level and SYNC2 the old SYNC1, for each pin. -/
def Obligations.SynchronizersShiftEveryCycle : Prop :=
  ∀ s t : State, s.now.rst = false → step s = .next t → ∀ p : PinId,
    (t.pins.get p).sync1 = s.now.pin p ∧ (t.pins.get p).sync2 = (s.pins.get p).sync1

/-- R251, R252: a filter step shifts the sample into bit 0 of the history, and the level changes, with the edge that
says so, exactly when all N most recent samples agree against it. -/
def Obligations.FilterConfirmsOnlyAUniformWindow : Prop :=
  ∀ (p : Pin) (x : Bool), 1 ≤ p.n.toNat → p.n.toNat ≤ 64 →
    let h := fun j : Nat => if j = 0 then x else p.hist.getLsbD (j - 1)
    (∀ j, j < 64 → (debounce p x).pin.hist.getLsbD j = h j) ∧
    ((∀ j, j < p.n.toNat → h j = true) → p.lvl = false →
      (debounce p x).edge = .rise ∧ (debounce p x).pin.lvl = true) ∧
    ((∀ j, j < p.n.toNat → h j = false) → p.lvl = true →
      (debounce p x).edge = .fall ∧ (debounce p x).pin.lvl = false) ∧
    ((∃ j, j < p.n.toNat ∧ h j = p.lvl) → (debounce p x).edge = .none ∧ (debounce p x).pin.lvl = p.lvl) ∧
    (debounce p x).pin.n = p.n ∧ (debounce p x).pin.sync1 = p.sync1 ∧ (debounce p x).pin.sync2 = p.sync2

/-- R253: a step returns RISE or FALL exactly when it changes the level, and NONE in every other step. -/
def Obligations.EdgeExactlyAtALevelChange : Prop :=
  ∀ (p : Pin) (x : Bool),
    ((debounce p x).edge = .rise ↔ p.lvl = false ∧ (debounce p x).pin.lvl = true) ∧
    ((debounce p x).edge = .fall ↔ p.lvl = true ∧ (debounce p x).pin.lvl = false) ∧
    ((debounce p x).edge = .none ↔ (debounce p x).pin.lvl = p.lvl)

/-- R255: once a pin's samples are all `x`, its level is `x` after at most `n` filter steps, and stays so. -/
def Obligations.LevelSettlesWithinTheDepth : Prop :=
  ∀ (p : Pin) (x : Bool) (k : Nat), 1 ≤ p.n.toNat → p.n.toNat ≤ 64 → p.n.toNat ≤ k →
    (Nat.iterate (fun q => (debounce q x).pin) k p).lvl = x

/-- R250: no filter reads another's state: what a step makes of a pin depends on that pin, the cycle's inputs and the
parameters alone, in the same way in any two states. -/
def Obligations.FiltersAreIndependent : Prop :=
  ∀ (s t s' t' : State) (p : PinId), step s = .next t → step s' = .next t' →
    s.now = s'.now → s.cfg = s'.cfg → s.pins.get p = s'.pins.get p → t.pins.get p = t'.pins.get p

/-! ## Event aggregator -/

/-- R276: POLL, word 0x6000_0000, makes one poll tick, with `poll_tick` or without it; nothing else changes but by the
cycle's other parts. -/
def Obligations.PollMakesOnePollTick : Prop :=
  decodeCommand 0x60000000#32 = .poll ∧
  ∀ s : State,
    ∃ t, exec .poll s = .next t ∧ OwnParts true false false s t ∧ HostKept s t ∧ t.env = s.env.advance 0#32

/-- R272 to R274: a poll tick filters each pin's second flop; the decoder is called once, with the levels after this
tick, exactly when phase A or B had an edge; a fall of SW, and nothing else, requests PRESS. -/
def Obligations.PollTickFollowsItsProcedure : Prop :=
  ∀ (cfg : Config) (ps : Pins) (q : QState),
    let fa := debounce ps.a ps.a.sync2
    let fb := debounce ps.b ps.b.sync2
    let fw := debounce ps.sw ps.sw.sync2
    (poll cfg ps q).pins = { a := fa.pin, b := fb.pin, sw := fw.pin } ∧
    (fa.edge = .none → fb.edge = .none → (poll cfg ps q).qst = q ∧ (poll cfg ps q).r = 0) ∧
    (fa.edge ≠ .none ∨ fb.edge ≠ .none →
      (poll cfg ps q).qst = (qDecode cfg q (phaseInput fa.pin.lvl fb.pin.lvl)).1 ∧
      (poll cfg ps q).r = (qDecode cfg q (phaseInput fa.pin.lvl fb.pin.lvl)).2) ∧
    ((poll cfg ps q).pressSet = true ↔ fw.edge = .fall) ∧
    (∀ a b : Bool, (phaseInput a b).toNat = 2 * a.toNat + b.toNat)

/-- R275: a non-zero tick overwrites DELTA, a zero tick leaves it or lets a clear act; a press sets PRESS; and a new
event in the same cycle as a clear wins. -/
def Obligations.NewEventWinsOverClear : Prop :=
  ∀ (clr : Bool) (delta : BitVec 2) (press : Bool),
    mergeDelta 1 clr delta = 0b01#2 ∧ mergeDelta (-1) clr delta = 0b11#2 ∧
    mergeDelta 0 clr delta = (if clr then 0b00#2 else delta) ∧
    mergePress true clr press = true ∧ mergePress false clr press = (if clr then false else press)

/-- R277, in the encoding of R114: EVCLR requests the clear of DELTA and PRESS as its operands say, through the merge;
nothing else changes but by the cycle's other parts. -/
def Obligations.EvclrClearsWhatItNames : Prop :=
  (∀ cd cp : Bool, decodeCommand (0x7#4 ++ 0#26 ++ BitVec.ofBool cp ++ BitVec.ofBool cd) = .evclr cd cp) ∧
  ∀ (s : State) (cd cp : Bool),
    ∃ t, exec (.evclr cd cp) s = .next t ∧ OwnParts s.now.pollTick cd cp s t ∧ HostKept s t ∧
      (s.now.pollTick = false →
        t.delta = (if cd then 0#2 else s.delta) ∧ t.press = (if cp then false else s.press)) ∧
      t.env = s.env.advance 0#32

/-- R278: only EVCLR, a read of EVENTS_RC and reset clear DELTA and PRESS. -/
def Obligations.NoEventClearsItself : Prop :=
  ∀ s t : State, step s = .next t →
    (s.delta ≠ 0#2 → t.delta = 0#2 →
      s.now.rst = true ∨ (s.now.busRe = true ∧ s.now.busAddr = 3#3) ∨
      ∃ cp, s.now.busWe = true ∧ s.now.busAddr = 0#3 ∧ decodeCommand s.now.busWdata = .evclr true cp) ∧
    (s.press = true → t.press = false →
      s.now.rst = true ∨ (s.now.busRe = true ∧ s.now.busAddr = 3#3) ∨
      ∃ cd, s.now.busWe = true ∧ s.now.busAddr = 0#3 ∧ decodeCommand s.now.busWdata = .evclr cd true)

/-- R274, R275: PRESS is set only by a poll tick in which the SW filter falls, and DELTA takes a new non-zero value only
by a poll tick with an edge on phase A or B. -/
def Obligations.EventsAreSetOnlyByPollTicks : Prop :=
  ∀ s t : State, step s = .next t →
    (s.press = false → t.press = true →
      s.now.rst = false ∧ (debounce s.pins.sw s.pins.sw.sync2).edge = .fall ∧
      (s.now.pollTick = true ∨
        (s.now.busWe = true ∧ s.now.busAddr = 0#3 ∧ decodeCommand s.now.busWdata = .poll))) ∧
    (t.delta ≠ s.delta → t.delta ≠ 0#2 →
      s.now.rst = false ∧
      ((debounce s.pins.a s.pins.a.sync2).edge ≠ .none ∨ (debounce s.pins.b s.pins.b.sync2).edge ≠ .none) ∧
      (s.now.pollTick = true ∨
        (s.now.busWe = true ∧ s.now.busAddr = 0#3 ∧ decodeCommand s.now.busWdata = .poll)))

/-- The input side never depends on the display side: two states that agree on the parameters, the inputs, the pins,
QST, DELTA and PRESS agree on them after a step, whatever their matrices, serializers, delays and sticky bits are. -/
def Obligations.InputSideIgnoresDisplaySide : Prop :=
  ∀ s t s' t' : State, step s = .next t → step s' = .next t' →
    s.cfg = s'.cfg → s.env.inputs = s'.env.inputs → s.env.drawn = s'.env.drawn →
    s.pins = s'.pins → s.qst = s'.qst → s.delta = s'.delta → s.press = s'.press →
    t.cfg = t'.cfg ∧ t.env.inputs = t'.env.inputs ∧ t.env.drawn = t'.env.drawn ∧
    t.pins = t'.pins ∧ t.qst = t'.qst ∧ t.delta = t'.delta ∧ t.press = t'.press

/-! ## Host bus -/

/-- R292, R298: RD.CMD and RD.RSVD return 0 and change nothing but by the cycle's other parts. -/
def Obligations.ReadsOfCmdAndReservedReturnZero : Prop :=
  (∀ w : Word,
    decodeOperation 0b0000#4 w = .rdCmd ∧
    decodeOperation 0b0110#4 w = .rdRsvd false ∧
    decodeOperation 0b0111#4 w = .rdRsvd true) ∧
  ∀ (s : State) (i : Instr), (i = .rdCmd ∨ ∃ x, i = .rdRsvd x) →
    ∃ t, exec i s = .next t ∧ t.env = s.env.advance 0#32 ∧ HostKept s t ∧ OwnParts s.now.pollTick false false s t

/-- R293: RD.STATUS returns PEND, CMDERR, OVR and BUSY of the pre-edge state in bits 3..0, the rest zero; it clears
nothing. -/
def Obligations.RdStatusReturnsTheFlags : Prop :=
  (∀ w : Word, decodeOperation 0b0001#4 w = .rdStatus) ∧
  ∀ s : State,
    ∃ t, exec .rdStatus s = .next t ∧
      t.env.rdata.getLsbD 0 = s.ser.busy ∧ t.env.rdata.getLsbD 1 = s.ovr ∧ t.env.rdata.getLsbD 2 = s.cmderr ∧
      t.env.rdata.getLsbD 3 = (decide (s.delta ≠ 0#2) || s.press) ∧
      (∀ j, 4 ≤ j → t.env.rdata.getLsbD j = false) ∧
      HostKept s t ∧ OwnParts s.now.pollTick false false s t

/-- R294: RD.EVENTS returns DELTA, PRESS, QST and the three levels in the layout of R37, with no side effect. -/
def Obligations.RdEventsReturnsTheInputState : Prop :=
  (∀ w : Word, decodeOperation 0b0010#4 w = .rdEvents) ∧
  ∀ s : State,
    ∃ t, exec .rdEvents s = .next t ∧
      t.env.rdata.extractLsb' 0 2 = s.delta ∧ t.env.rdata.getLsbD 2 = s.press ∧ t.env.rdata.getLsbD 3 = false ∧
      t.env.rdata.extractLsb' 4 3 = s.qst.code ∧ t.env.rdata.getLsbD 7 = false ∧
      t.env.rdata.getLsbD 8 = s.pins.a.lvl ∧ t.env.rdata.getLsbD 9 = s.pins.b.lvl ∧
      t.env.rdata.getLsbD 10 = s.pins.sw.lvl ∧ (∀ j, 11 ≤ j → t.env.rdata.getLsbD j = false) ∧
      HostKept s t ∧ OwnParts s.now.pollTick false false s t

/-- R295: RD.EVENTS_RC returns the value RD.EVENTS would give in this cycle and clears both events, but for a new event
that a poll tick latches in the same cycle. -/
def Obligations.RdEventsRcReadsAndClears : Prop :=
  (∀ w : Word, decodeOperation 0b0011#4 w = .rdEventsRc) ∧
  ∀ s : State,
    ∃ t, exec .rdEventsRc s = .next t ∧
      (∃ u, exec .rdEvents s = .next u ∧ t.env = u.env) ∧
      HostKept s t ∧ OwnParts s.now.pollTick true true s t ∧
      (s.now.pollTick = false → t.delta = 0#2 ∧ t.press = false)

/-- R296, R297: RD.CONFIG returns the three depths and RD.DELAY the register DELAY (not the latched DL), every other bit
zero; no side effect. -/
def Obligations.RdConfigAndRdDelayReturnTheRegisters : Prop :=
  (∀ w : Word, decodeOperation 0b0100#4 w = .rdConfig ∧ decodeOperation 0b0101#4 w = .rdDelay) ∧
  ∀ s : State,
    (∃ t, exec .rdConfig s = .next t ∧
      t.env.rdata.extractLsb' 0 7 = s.pins.a.n ∧ t.env.rdata.getLsbD 7 = false ∧
      t.env.rdata.extractLsb' 8 7 = s.pins.b.n ∧ t.env.rdata.getLsbD 15 = false ∧
      t.env.rdata.extractLsb' 16 7 = s.pins.sw.n ∧ (∀ j, 23 ≤ j → t.env.rdata.getLsbD j = false) ∧
      HostKept s t ∧ OwnParts s.now.pollTick false false s t) ∧
    (∃ t, exec .rdDelay s = .next t ∧
      t.env.rdata.extractLsb' 0 16 = s.delay ∧ (∀ j, 16 ≤ j → t.env.rdata.getLsbD j = false) ∧
      HostKept s t ∧ OwnParts s.now.pollTick false false s t)

/-- R300: WR.STATUS clears OVR where bit 1 is 1 and CMDERR where bit 2 is 1; every other bit is ignored. -/
def Obligations.WrStatusClearsWhereWrittenOne : Prop :=
  (∀ w : Word, decodeOperation 0b1001#4 w = .wrStatus w) ∧
  ∀ (s : State) (w : Word),
    ∃ t, exec (.wrStatus w) s = .next t ∧
      t.ovr = (if w.getLsbD 1 then false else s.ovr) ∧ t.cmderr = (if w.getLsbD 2 then false else s.cmderr) ∧
      MatrixKept s t ∧ SerGoesOn s t ∧ RegsKept s t ∧ OwnParts s.now.pollTick false false s t ∧
      t.env = s.env.advance (if s.now.busRe then readReg s 1#3 else 0#32)

/-- R301, R304: writes of EVENTS, EVENTS_RC and the reserved addresses are ignored; only a read at address 3 in the same
cycle clears events (R305). -/
def Obligations.IgnoredWritesChangeNothing : Prop :=
  (∀ w : Word,
    decodeOperation 0b1010#4 w = .wrEvents w ∧
    decodeOperation 0b1011#4 w = .wrEventsRc w ∧
    decodeOperation 0b1110#4 w = .wrRsvd false w ∧
    decodeOperation 0b1111#4 w = .wrRsvd true w) ∧
  ∀ (s : State) (w : Word) (x : Bool),
    (∃ t, exec (.wrEvents w) s = .next t ∧ HostKept s t ∧ OwnParts s.now.pollTick false false s t ∧
      t.env = s.env.advance (if s.now.busRe then readReg s 2#3 else 0#32)) ∧
    (∃ t, exec (.wrEventsRc w) s = .next t ∧ HostKept s t ∧
      OwnParts s.now.pollTick s.now.busRe s.now.busRe s t ∧
      t.env = s.env.advance (if s.now.busRe then readReg s 3#3 else 0#32)) ∧
    (∃ t, exec (.wrRsvd x w) s = .next t ∧ HostKept s t ∧ OwnParts s.now.pollTick false false s t ∧
      t.env = s.env.advance 0#32)

/-- R302: each depth field of WR.CONFIG takes its value when it is in 1..64 and keeps the old one otherwise; the history
and the level are those of the cycle's poll part. -/
def Obligations.WrConfigWritesTheLegalDepths : Prop :=
  (∀ w : Word, decodeOperation 0b1100#4 w = .wrConfig w) ∧
  ∀ (s : State) (w : Word),
    ∃ t, exec (.wrConfig w) s = .next t ∧
      t.pins.a.n = (if 1 ≤ (w.extractLsb' 0 7).toNat ∧ (w.extractLsb' 0 7).toNat ≤ 64
        then w.extractLsb' 0 7 else s.pins.a.n) ∧
      t.pins.b.n = (if 1 ≤ (w.extractLsb' 8 7).toNat ∧ (w.extractLsb' 8 7).toNat ≤ 64
        then w.extractLsb' 8 7 else s.pins.b.n) ∧
      t.pins.sw.n = (if 1 ≤ (w.extractLsb' 16 7).toNat ∧ (w.extractLsb' 16 7).toNat ≤ 64
        then w.extractLsb' 16 7 else s.pins.sw.n) ∧
      t.delay = s.delay ∧ MatrixKept s t ∧ SerGoesOn s t ∧ StickyKept s t ∧
      OwnParts s.now.pollTick false false s t ∧
      t.env = s.env.advance (if s.now.busRe then readReg s 4#3 else 0#32)

/-- R303: WR.DELAY writes bits 15:0 unless they are 0; a transaction in progress keeps its latched delay. -/
def Obligations.WrDelayWritesANonZeroDelay : Prop :=
  (∀ w : Word, decodeOperation 0b1101#4 w = .wrDelay w) ∧
  ∀ (s : State) (w : Word),
    ∃ t, exec (.wrDelay w) s = .next t ∧
      t.delay = (if w.extractLsb' 0 16 = 0#16 then s.delay else w.extractLsb' 0 16) ∧
      (∀ p : PinId, (t.pins.get p).n = (s.pins.get p).n) ∧ t.ser.dl = s.ser.dl ∧
      MatrixKept s t ∧ SerGoesOn s t ∧ StickyKept s t ∧ OwnParts s.now.pollTick false false s t ∧
      t.env = s.env.advance (if s.now.busRe then readReg s 5#3 else 0#32)

/-- R305: in a cycle that reads and writes, the read returns `ReadReg` of the pre-edge state, and the write applies as
it would without the read; at address 3 the read clears the events; at CMD the read returns 0. -/
def Obligations.ReadAndWriteInOneCycle : Prop :=
  ∀ (s : State) (c : CycleIn) (cs : List CycleIn),
    s.env.inputs = c :: cs → c.rst = false → c.busWe = true → c.busRe = true →
    ∃ t u, step s = .next t ∧
      step { s with env := { s.env with inputs := { c with busRe := false } :: cs } } = .next u ∧
      t.env.rdata = readReg s c.busAddr ∧ (c.busAddr = 0#3 → t.env.rdata = 0#32) ∧
      t.cfg = u.cfg ∧ t.m = u.m ∧ t.ser = u.ser ∧ t.delay = u.delay ∧ t.pins = u.pins ∧ t.qst = u.qst ∧
      t.ovr = u.ovr ∧ t.cmderr = u.cmderr ∧ t.env.inputs = cs ∧
      (c.busAddr ≠ 3#3 → t.delta = u.delta ∧ t.press = u.press) ∧
      (c.busAddr = 3#3 → OwnParts c.pollTick true true s t ∧ OwnParts c.pollTick false false s u)

/-- R38, R39: a depth changes only by a write of CONFIG, DELAY only by a write of DELAY, and both by reset. -/
def Obligations.RegistersChangeOnlyByTheirWrite : Prop :=
  ∀ s t : State, step s = .next t →
    ((∃ p : PinId, (t.pins.get p).n ≠ (s.pins.get p).n) →
      s.now.rst = true ∨ (s.now.busWe = true ∧ s.now.busAddr = 4#3)) ∧
    (t.delay ≠ s.delay → s.now.rst = true ∨ (s.now.busWe = true ∧ s.now.busAddr = 5#3))

/-! ## Errors -/

/-- R320, R327: the two sticky bits are set only by their cause (an illegal word written to CMD; a legal serial command
written while BUSY = 1) and cleared only by a WR.STATUS with 1 in their bit, or reset. -/
def Obligations.StickyBitsHaveOneCauseAndOneClear : Prop :=
  ∀ s t : State, step s = .next t →
    (s.cmderr = false → t.cmderr = true →
      s.now.busWe = true ∧ s.now.busAddr = 0#3 ∧
        decodeCommand s.now.busWdata = .illegal s.now.busWdata) ∧
    (s.ovr = false → t.ovr = true →
      s.now.busWe = true ∧ s.now.busAddr = 0#3 ∧ s.ser.busy = true ∧
        (decodeCommand s.now.busWdata = .wrframe ∨ ∃ on bri, decodeCommand s.now.busWdata = .dispctrl on bri)) ∧
    (s.cmderr = true → t.cmderr = false →
      s.now.rst = true ∨ (s.now.busWe = true ∧ s.now.busAddr = 1#3 ∧ s.now.busWdata.getLsbD 2 = true)) ∧
    (s.ovr = true → t.ovr = false →
      s.now.rst = true ∨ (s.now.busWe = true ∧ s.now.busAddr = 1#3 ∧ s.now.busWdata.getLsbD 1 = true))
end

