-- ==== Sys2Proof/Laws/State.lean ====
section
/-! SUPPORT. One lemma per field per update of the state: what each named update leaves in each field, so that a later
proof never unfolds a record update. -/

namespace Sys2Proof.Machine

/-! `raise` (R326). -/

@[simp] theorem raise_cmdErr_cfg (s : State) : (raise .cmdErr s).cfg = s.cfg := rfl
@[simp] theorem raise_overrun_cfg (s : State) : (raise .overrun s).cfg = s.cfg := rfl
@[simp] theorem raise_cmdErr_m (s : State) : (raise .cmdErr s).m = s.m := rfl
@[simp] theorem raise_overrun_m (s : State) : (raise .overrun s).m = s.m := rfl
@[simp] theorem raise_cmdErr_ser (s : State) : (raise .cmdErr s).ser = s.ser := rfl
@[simp] theorem raise_overrun_ser (s : State) : (raise .overrun s).ser = s.ser := rfl
@[simp] theorem raise_cmdErr_delay (s : State) : (raise .cmdErr s).delay = s.delay := rfl
@[simp] theorem raise_overrun_delay (s : State) : (raise .overrun s).delay = s.delay := rfl
@[simp] theorem raise_cmdErr_pins (s : State) : (raise .cmdErr s).pins = s.pins := rfl
@[simp] theorem raise_overrun_pins (s : State) : (raise .overrun s).pins = s.pins := rfl
@[simp] theorem raise_cmdErr_qst (s : State) : (raise .cmdErr s).qst = s.qst := rfl
@[simp] theorem raise_overrun_qst (s : State) : (raise .overrun s).qst = s.qst := rfl
@[simp] theorem raise_cmdErr_delta (s : State) : (raise .cmdErr s).delta = s.delta := rfl
@[simp] theorem raise_overrun_delta (s : State) : (raise .overrun s).delta = s.delta := rfl
@[simp] theorem raise_cmdErr_press (s : State) : (raise .cmdErr s).press = s.press := rfl
@[simp] theorem raise_overrun_press (s : State) : (raise .overrun s).press = s.press := rfl
@[simp] theorem raise_cmdErr_ovr (s : State) : (raise .cmdErr s).ovr = s.ovr := rfl
@[simp] theorem raise_overrun_ovr (s : State) : (raise .overrun s).ovr = true := rfl
@[simp] theorem raise_cmdErr_cmderr (s : State) : (raise .cmdErr s).cmderr = true := rfl
@[simp] theorem raise_overrun_cmderr (s : State) : (raise .overrun s).cmderr = s.cmderr := rfl
@[simp] theorem raise_cmdErr_env (s : State) : (raise .cmdErr s).env = s.env := rfl
@[simp] theorem raise_overrun_env (s : State) : (raise .overrun s).env = s.env := rfl

/-! `acknowledge` (R327). -/

@[simp] theorem acknowledge_cmdErr_cfg (one : Bool) (s : State) : (acknowledge .cmdErr one s).cfg = s.cfg := rfl
@[simp] theorem acknowledge_overrun_cfg (one : Bool) (s : State) : (acknowledge .overrun one s).cfg = s.cfg := rfl
@[simp] theorem acknowledge_cmdErr_m (one : Bool) (s : State) : (acknowledge .cmdErr one s).m = s.m := rfl
@[simp] theorem acknowledge_overrun_m (one : Bool) (s : State) : (acknowledge .overrun one s).m = s.m := rfl
@[simp] theorem acknowledge_cmdErr_ser (one : Bool) (s : State) : (acknowledge .cmdErr one s).ser = s.ser := rfl
@[simp] theorem acknowledge_overrun_ser (one : Bool) (s : State) : (acknowledge .overrun one s).ser = s.ser := rfl
@[simp] theorem acknowledge_cmdErr_delay (one : Bool) (s : State) : (acknowledge .cmdErr one s).delay = s.delay := rfl
@[simp] theorem acknowledge_overrun_delay (one : Bool) (s : State) : (acknowledge .overrun one s).delay = s.delay := rfl
@[simp] theorem acknowledge_cmdErr_pins (one : Bool) (s : State) : (acknowledge .cmdErr one s).pins = s.pins := rfl
@[simp] theorem acknowledge_overrun_pins (one : Bool) (s : State) : (acknowledge .overrun one s).pins = s.pins := rfl
@[simp] theorem acknowledge_cmdErr_qst (one : Bool) (s : State) : (acknowledge .cmdErr one s).qst = s.qst := rfl
@[simp] theorem acknowledge_overrun_qst (one : Bool) (s : State) : (acknowledge .overrun one s).qst = s.qst := rfl
@[simp] theorem acknowledge_cmdErr_delta (one : Bool) (s : State) : (acknowledge .cmdErr one s).delta = s.delta := rfl
@[simp] theorem acknowledge_overrun_delta (one : Bool) (s : State) : (acknowledge .overrun one s).delta = s.delta := rfl
@[simp] theorem acknowledge_cmdErr_press (one : Bool) (s : State) : (acknowledge .cmdErr one s).press = s.press := rfl
@[simp] theorem acknowledge_overrun_press (one : Bool) (s : State) : (acknowledge .overrun one s).press = s.press := rfl
@[simp] theorem acknowledge_cmdErr_ovr (one : Bool) (s : State) : (acknowledge .cmdErr one s).ovr = s.ovr := rfl
@[simp] theorem acknowledge_overrun_ovr (one : Bool) (s : State) : (acknowledge .overrun one s).ovr = (s.ovr && !one) := rfl
@[simp] theorem acknowledge_cmdErr_cmderr (one : Bool) (s : State) : (acknowledge .cmdErr one s).cmderr = (s.cmderr && !one) := rfl
@[simp] theorem acknowledge_overrun_cmderr (one : Bool) (s : State) : (acknowledge .overrun one s).cmderr = s.cmderr := rfl
@[simp] theorem acknowledge_cmdErr_env (one : Bool) (s : State) : (acknowledge .cmdErr one s).env = s.env := rfl
@[simp] theorem acknowledge_overrun_env (one : Bool) (s : State) : (acknowledge .overrun one s).env = s.env := rfl

/-! `Pin.sync`, `Pin.withDepth`, `Pin.atEdge`. -/

@[simp] theorem Pin.sync_sync1 (p : Pin) (level : Bool) : (p.sync level).sync1 = level := rfl
@[simp] theorem Pin.sync_sync2 (p : Pin) (level : Bool) : (p.sync level).sync2 = p.sync1 := rfl
@[simp] theorem Pin.sync_hist (p : Pin) (level : Bool) : (p.sync level).hist = p.hist := rfl
@[simp] theorem Pin.sync_lvl (p : Pin) (level : Bool) : (p.sync level).lvl = p.lvl := rfl
@[simp] theorem Pin.sync_n (p : Pin) (level : Bool) : (p.sync level).n = p.n := rfl
@[simp] theorem Pin.withDepth_sync1 (p : Pin) (new : BitVec 7) : (p.withDepth new).sync1 = p.sync1 := rfl
@[simp] theorem Pin.withDepth_sync2 (p : Pin) (new : BitVec 7) : (p.withDepth new).sync2 = p.sync2 := rfl
@[simp] theorem Pin.withDepth_hist (p : Pin) (new : BitVec 7) : (p.withDepth new).hist = p.hist := rfl
@[simp] theorem Pin.withDepth_lvl (p : Pin) (new : BitVec 7) : (p.withDepth new).lvl = p.lvl := rfl
@[simp] theorem Pin.withDepth_n (p : Pin) (new : BitVec 7) : (p.withDepth new).n = warlDepth p.n new := rfl
@[simp] theorem Pin.atEdge_sync1 (p : Pin) (level : Bool) (depth : BitVec 7) :
    (p.atEdge level depth).sync1 = level := rfl
@[simp] theorem Pin.atEdge_sync2 (p : Pin) (level : Bool) (depth : BitVec 7) :
    (p.atEdge level depth).sync2 = p.sync1 := rfl
@[simp] theorem Pin.atEdge_hist (p : Pin) (level : Bool) (depth : BitVec 7) :
    (p.atEdge level depth).hist = p.hist := rfl
@[simp] theorem Pin.atEdge_lvl (p : Pin) (level : Bool) (depth : BitVec 7) :
    (p.atEdge level depth).lvl = p.lvl := rfl
@[simp] theorem Pin.atEdge_n (p : Pin) (level : Bool) (depth : BitVec 7) :
    (p.atEdge level depth).n = depth := rfl

/-! `Pins.get` and `Pins.withConfig` (R302). -/

@[simp] theorem Pins.get_a (ps : Pins) : ps.get .a = ps.a := rfl
@[simp] theorem Pins.get_b (ps : Pins) : ps.get .b = ps.b := rfl
@[simp] theorem Pins.get_sw (ps : Pins) : ps.get .sw = ps.sw := rfl
@[simp] theorem Pins.withConfig_a (ps : Pins) (w : Word) :
    (ps.withConfig w).a = ps.a.withDepth (w.extractLsb' 0 7) := rfl
@[simp] theorem Pins.withConfig_b (ps : Pins) (w : Word) :
    (ps.withConfig w).b = ps.b.withDepth (w.extractLsb' 8 7) := rfl
@[simp] theorem Pins.withConfig_sw (ps : Pins) (w : Word) :
    (ps.withConfig w).sw = ps.sw.withDepth (w.extractLsb' 16 7) := rfl

/-! `Serializer.emit` (R194) and `Serializer.start` (R201). -/

@[simp] theorem Serializer.emit_snap (z : Serializer) (ev : Option LineEvent) : (z.emit ev).snap = z.snap := rfl
@[simp] theorem Serializer.emit_busy (z : Serializer) (ev : Option LineEvent) : (z.emit ev).busy = z.busy := rfl
@[simp] theorem Serializer.emit_kind (z : Serializer) (ev : Option LineEvent) : (z.emit ev).kind = z.kind := rfl
@[simp] theorem Serializer.emit_eidx (z : Serializer) (ev : Option LineEvent) : (z.emit ev).eidx = z.eidx := rfl
@[simp] theorem Serializer.emit_wcnt (z : Serializer) (ev : Option LineEvent) : (z.emit ev).wcnt = z.wcnt := rfl
@[simp] theorem Serializer.emit_dl (z : Serializer) (ev : Option LineEvent) : (z.emit ev).dl = z.dl := rfl
@[simp] theorem Serializer.emit_cb (z : Serializer) (ev : Option LineEvent) : (z.emit ev).cb = z.cb := rfl
@[simp] theorem Serializer.emit_lines (z : Serializer) (ev : Option LineEvent) : (z.emit ev).lines = ev.getD z.lines := rfl
@[simp] theorem Serializer.start_snap (cfg : Config) (delay : BitVec 16) (kind : Kind) (z : Serializer) :
    (z.start cfg delay kind).snap = z.snap := rfl
@[simp] theorem Serializer.start_busy (cfg : Config) (delay : BitVec 16) (kind : Kind) (z : Serializer) :
    (z.start cfg delay kind).busy = true := rfl
@[simp] theorem Serializer.start_kind (cfg : Config) (delay : BitVec 16) (kind : Kind) (z : Serializer) :
    (z.start cfg delay kind).kind = kind := rfl
@[simp] theorem Serializer.start_eidx (cfg : Config) (delay : BitVec 16) (kind : Kind) (z : Serializer) :
    (z.start cfg delay kind).eidx = 0 := rfl
@[simp] theorem Serializer.start_wcnt (cfg : Config) (delay : BitVec 16) (kind : Kind) (z : Serializer) :
    (z.start cfg delay kind).wcnt = delay := rfl
@[simp] theorem Serializer.start_dl (cfg : Config) (delay : BitVec 16) (kind : Kind) (z : Serializer) :
    (z.start cfg delay kind).dl = delay := rfl
@[simp] theorem Serializer.start_cb (cfg : Config) (delay : BitVec 16) (kind : Kind) (z : Serializer) :
    (z.start cfg delay kind).cb = z.cb := rfl
@[simp] theorem Serializer.start_lines (cfg : Config) (delay : BitVec 16) (kind : Kind) (z : Serializer) :
    (z.start cfg delay kind).lines = (z.event cfg kind 0).getD z.lines := rfl

/-! `runCycle` (R47): each field has one writer. -/

@[simp] theorem runCycle_cfg (op : HostOp) (s : State) : (runCycle op s).cfg =
    s.cfg := rfl
@[simp] theorem runCycle_m (op : HostOp) (s : State) : (runCycle op s).m =
    op.wr.m := rfl
@[simp] theorem runCycle_ser (op : HostOp) (s : State) : (runCycle op s).ser =
    if s.ser.busy then serAdvance s.cfg s.ser else op.wr.ser := rfl
@[simp] theorem runCycle_delay (op : HostOp) (s : State) : (runCycle op s).delay =
    op.wr.delay := rfl
@[simp] theorem runCycle_pins_get (op : HostOp) (s : State) (p : PinId) : (runCycle op s).pins.get p =
    ((pollCycle (s.now.pollTick || op.tick) s.cfg s.pins s.qst).pins.get p).atEdge (s.now.pin p) (op.wr.pins.get p).n := by
  cases p <;> rfl
@[simp] theorem runCycle_pins_a (op : HostOp) (s : State) : (runCycle op s).pins.a =
    (pollCycle (s.now.pollTick || op.tick) s.cfg s.pins s.qst).pins.a.atEdge s.now.encA op.wr.pins.a.n := rfl
@[simp] theorem runCycle_pins_b (op : HostOp) (s : State) : (runCycle op s).pins.b =
    (pollCycle (s.now.pollTick || op.tick) s.cfg s.pins s.qst).pins.b.atEdge s.now.encB op.wr.pins.b.n := rfl
@[simp] theorem runCycle_pins_sw (op : HostOp) (s : State) : (runCycle op s).pins.sw =
    (pollCycle (s.now.pollTick || op.tick) s.cfg s.pins s.qst).pins.sw.atEdge s.now.encSw op.wr.pins.sw.n := rfl
@[simp] theorem runCycle_qst (op : HostOp) (s : State) : (runCycle op s).qst =
    (pollCycle (s.now.pollTick || op.tick) s.cfg s.pins s.qst).qst := rfl
@[simp] theorem runCycle_delta (op : HostOp) (s : State) : (runCycle op s).delta =
    mergeDelta (pollCycle (s.now.pollTick || op.tick) s.cfg s.pins s.qst).r op.clrD s.delta := rfl
@[simp] theorem runCycle_press (op : HostOp) (s : State) : (runCycle op s).press =
    mergePress (pollCycle (s.now.pollTick || op.tick) s.cfg s.pins s.qst).pressSet op.clrP s.press := rfl
@[simp] theorem runCycle_ovr (op : HostOp) (s : State) : (runCycle op s).ovr =
    op.wr.ovr := rfl
@[simp] theorem runCycle_cmderr (op : HostOp) (s : State) : (runCycle op s).cmderr =
    op.wr.cmderr := rfl
@[simp] theorem runCycle_env (op : HostOp) (s : State) : (runCycle op s).env =
    s.env.advance op.rdata := rfl

/-! `HostOp.withRead` (R305) and `readOp` (R295). -/

@[simp] theorem HostOp.withRead_wr (op : HostOp) (a : BitVec 3) (s : State) : (op.withRead a s).wr = op.wr := by
  unfold HostOp.withRead; split <;> rfl
@[simp] theorem HostOp.withRead_tick (op : HostOp) (a : BitVec 3) (s : State) : (op.withRead a s).tick = op.tick := by
  unfold HostOp.withRead; split <;> rfl
@[simp] theorem HostOp.withRead_clrD (op : HostOp) (a : BitVec 3) (s : State) :
    (op.withRead a s).clrD = (op.clrD || (s.now.busRe && decide (a = 3#3))) := by
  unfold HostOp.withRead readOp; split <;> simp_all
@[simp] theorem HostOp.withRead_clrP (op : HostOp) (a : BitVec 3) (s : State) :
    (op.withRead a s).clrP = (op.clrP || (s.now.busRe && decide (a = 3#3))) := by
  unfold HostOp.withRead readOp; split <;> simp_all
@[simp] theorem HostOp.withRead_rdata (op : HostOp) (a : BitVec 3) (s : State) :
    (op.withRead a s).rdata = if s.now.busRe then readReg s a else op.rdata := by
  unfold HostOp.withRead readOp; split <;> simp_all
@[simp] theorem readOp_wr (a : BitVec 3) (s : State) : (readOp a s).wr = s := rfl
@[simp] theorem readOp_tick (a : BitVec 3) (s : State) : (readOp a s).tick = false := rfl
@[simp] theorem readOp_clrD (a : BitVec 3) (s : State) : (readOp a s).clrD = decide (a = 3#3) := rfl
@[simp] theorem readOp_clrP (a : BitVec 3) (s : State) : (readOp a s).clrP = decide (a = 3#3) := rfl
@[simp] theorem readOp_rdata (a : BitVec 3) (s : State) : (readOp a s).rdata = readReg s a := rfl

/-! `Env.advance`. -/

@[simp] theorem Env.advance_rdata (e : Env) (w : Word) : (e.advance w).rdata = w := by
  unfold Env.advance; split <;> rfl
@[simp] theorem Env.advance_inputs (e : Env) (w : Word) : (e.advance w).inputs = e.inputs.tail := by
  unfold Env.advance; split <;> simp_all
@[simp] theorem Env.advance_drawn (e : Env) (w : Word) :
    (e.advance w).drawn = if e.inputs = [] then e.drawn + 1 else e.drawn := by
  unfold Env.advance; split <;> simp_all

end Sys2Proof.Machine
end

