-- ==== Sys2Proof/Laws/Ops.lean ====
section
/-! SUPPORT. What each shared operation can do, said once: the matrix and frame accessors, the address map, the
serializer's advance, the filter step, the merge. -/

namespace Sys2Proof.Machine

/-! Bits, flags and frames. -/

@[simp] theorem getLsbD_bitsOf (n : Nat) (f : Nat → Bool) (i : Nat) :
    (bitsOf n f).getLsbD i = (decide (i < n) && f i) := by
  induction n with
  | zero => simp [bitsOf]
  | succ n ih =>
    rw [bitsOf, BitVec.getLsbD_cons, ih]
    by_cases h : i = n
    · simp [h]
    · have : i < n + 1 ↔ i < n := by omega
      simp [h, this]

@[simp] theorem getElem_bitsOf (n : Nat) (f : Nat → Bool) (i : Nat) (h : i < n) : (bitsOf n f)[i] = f i := by
  rw [← BitVec.getLsbD_eq_getElem, getLsbD_bitsOf]
  simp [h]

/-- Writing one flag changes that flag and no other. -/
@[simp] theorem flag_withFlag (plane : Vector (BitVec 32) 32) (row col r c : BitVec 5) (v : Bool) :
    flag (withFlag plane row col v) r c = if r = row ∧ c = col then v else flag plane r c := by
  have hcol : col.toNat < 32 := col.isLt
  have hc : c.toNat < 32 := c.isLt
  unfold flag withFlag
  simp only [Vector.get_eq_getElem]
  by_cases hr : r = row
  · subst hr
    rw [Vector.getElem_set_self]
    by_cases hcc : c = col
    · subst hcc
      cases v <;> simp [hc]
    · have hn : c.toNat ≠ col.toNat := fun h => hcc (BitVec.eq_of_toNat_eq h)
      have h0 : c.toNat < col.toNat ∨ c.toNat - col.toNat ≠ 0 := by omega
      rcases h0 with h0 | h0 <;> cases v <;> simp [hcc, hc, h0]
  · have hn : ¬ (row.toFin.val = r.toFin.val) := fun h => hr (BitVec.eq_of_toNat_eq h.symm)
    rw [Vector.getElem_set_ne _ _ hn]
    simp [hr]

/-- `ToPhys` bit by bit: bit `b` of a bitplane is the flag of the pixel that the inverse map gives. -/
theorem toPhysPlane_getLsbD (plane : Vector (BitVec 32) 32) (ch : BitVec 4) (b : BitVec 6) :
    ((toPhysPlane plane).get ch.toFin).getLsbD b.toNat =
      flag plane (addressMapInv ch b).1 (addressMapInv ch b).2 := by
  have hb : b.toNat < 64 := b.isLt
  simp [toPhysPlane, Vector.get_eq_getElem, hb]

/-! The inputs of a cycle. -/

theorem now_of_cons {s : State} {c : CycleIn} {cs : List CycleIn} (h : s.env.inputs = c :: cs) : s.now = c := by
  simp [State.now, h]

theorem now_eq_inputAt (s : State) : s.now = s.inputAt 0 := by
  unfold State.now State.inputAt
  cases h : s.env.inputs <;> simp

/-- After a cycle, the inputs are those that stood one cycle further. -/
theorem inputAt_of_advance {s t : State} {w : Word} (h : t.env = s.env.advance w) (j : Nat) :
    t.inputAt j = s.inputAt (j + 1) := by
  unfold State.inputAt
  rw [h]
  cases hi : s.env.inputs with
  | nil => simp [hi, Nat.add_assoc, Nat.add_comm 1 j]
  | cons c cs => simp [hi, Nat.add_sub_add_right]

/-! The serializer. -/

/-- Everything `SerAdvance` can do (R202). -/
theorem serAdvance_cases (cfg : Config) (z : Serializer) :
    (1 < z.wcnt.toNat ∧ serAdvance cfg z = { z with wcnt := z.wcnt - 1#16 }) ∨
    (z.wcnt.toNat ≤ 1 ∧ z.eidx.toNat = z.kind.last ∧ serAdvance cfg z = { z with busy := false }) ∨
    (z.wcnt.toNat ≤ 1 ∧ z.eidx.toNat ≠ z.kind.last ∧
      serAdvance cfg z =
        { z with
          eidx := z.eidx + 1#9
          wcnt := z.dl
          lines := (z.event cfg z.kind (z.eidx.toNat + 1)).getD z.lines }) := by
  unfold serAdvance
  by_cases h1 : z.wcnt.toNat > 1
  · left; simp [h1]
  · by_cases h2 : z.eidx.toNat = z.kind.last
    · right; left; simp [h1, h2]; omega
    · right; right; simp [h1, h2, Serializer.emit]; omega

@[simp] theorem serAdvance_snap (cfg : Config) (z : Serializer) : (serAdvance cfg z).snap = z.snap := by
  rcases serAdvance_cases cfg z with ⟨-, h⟩ | ⟨-, -, h⟩ | ⟨-, -, h⟩ <;> rw [h]
@[simp] theorem serAdvance_kind (cfg : Config) (z : Serializer) : (serAdvance cfg z).kind = z.kind := by
  rcases serAdvance_cases cfg z with ⟨-, h⟩ | ⟨-, -, h⟩ | ⟨-, -, h⟩ <;> rw [h]
@[simp] theorem serAdvance_dl (cfg : Config) (z : Serializer) : (serAdvance cfg z).dl = z.dl := by
  rcases serAdvance_cases cfg z with ⟨-, h⟩ | ⟨-, -, h⟩ | ⟨-, -, h⟩ <;> rw [h]
@[simp] theorem serAdvance_cb (cfg : Config) (z : Serializer) : (serAdvance cfg z).cb = z.cb := by
  rcases serAdvance_cases cfg z with ⟨-, h⟩ | ⟨-, -, h⟩ | ⟨-, -, h⟩ <;> rw [h]

/-- A serial command writes the sequencer only where BUSY was 0 (R201), so a cycle's serializer is its own advance or
what the host wrote. -/
theorem runCycle_ser_busy {op : HostOp} {s : State} (h : s.ser.busy = true) :
    (runCycle op s).ser = serAdvance s.cfg s.ser := by simp [h]
theorem runCycle_ser_idle {op : HostOp} {s : State} (h : s.ser.busy = false) :
    (runCycle op s).ser = op.wr.ser := by simp [h]

theorem serCycle_busy {cfg : Config} {z : Serializer} (h : z.busy = true) : serCycle cfg z = serAdvance cfg z := by
  simp [serCycle, h]
theorem serCycle_idle {cfg : Config} {z : Serializer} (h : z.busy = false) : serCycle cfg z = z := by
  simp [serCycle, h]

/-- Where the host's write leaves the serializer alone, the serializer goes on by itself. -/
theorem runCycle_serGoesOn {op : HostOp} {s : State} (h : op.wr.ser = s.ser) : SerGoesOn s (runCycle op s) := by
  unfold SerGoesOn serCycle
  simp [h]

/-! The programs. -/

theorem length_bitTick (v : BitVec 16) : (bitTick v).length = 3 := rfl

/-- Element `3*k + j` of a run of bit-ticks is element `j` of the `k`-th tick. -/
theorem getElem?_flatMap_bitTick (f : Nat → BitVec 16) (n k j : Nat) (hk : k < n) (hj : j < 3) :
    ((List.range n).flatMap fun i => bitTick (f i))[3 * k + j]? = (bitTick (f k))[j]? := by
  induction n with
  | zero => omega
  | succ n ih =>
    have hlen : ((List.range n).flatMap fun i => bitTick (f i)).length = 3 * n := by
      simp [List.length_flatMap, length_bitTick, Nat.mul_comm]
    rw [List.range_succ, List.flatMap_append, List.getElem?_append, hlen]
    by_cases h : k < n
    · rw [if_pos (by omega), ih h]
    · have : k = n := by omega
      subst this
      rw [if_neg (by omega)]
      simp

theorem length_flatMap_bitTick (f : Nat → BitVec 16) (n : Nat) :
    ((List.range n).flatMap fun i => bitTick (f i)).length = 3 * n := by
  simp [List.length_flatMap, length_bitTick, Nat.mul_comm]

@[simp] theorem length_byteSeq (b : Byte) : (byteSeq b).length = 24 := length_flatMap_bitTick _ 8
@[simp] theorem length_payload (f : Frame) : (payload f).length = 384 := length_flatMap_bitTick _ 128

/-- Line `ch` of the payload's bit-tick `k` (R196). -/
theorem payloadVector_getLsbD (f : Frame) (k : Nat) (ch : BitVec 4) :
    (payloadVector f k).getLsbD ch.toNat = (f.plane ch (BitVec.ofNat 1 (k / 64))).getLsbD (k % 64) := by
  have h : ch.toNat < 16 := ch.isLt
  simp [payloadVector, h]

/-! The filter. -/

/-- Everything a filter step can do (R252). -/
theorem debounce_cases (p : Pin) (x : Bool) :
    (pushSample p.hist x &&& mask64 p.n.toNat = mask64 p.n.toNat ∧ p.lvl = false ∧
      debounce p x = { pin := { p with hist := pushSample p.hist x, lvl := true }, edge := .rise }) ∨
    (pushSample p.hist x &&& mask64 p.n.toNat = 0#64 ∧ p.lvl = true ∧
      debounce p x = { pin := { p with hist := pushSample p.hist x, lvl := false }, edge := .fall }) ∨
    (¬ (pushSample p.hist x &&& mask64 p.n.toNat = mask64 p.n.toNat ∧ p.lvl = false) ∧
      ¬ (pushSample p.hist x &&& mask64 p.n.toNat = 0#64 ∧ p.lvl = true) ∧
      debounce p x = { pin := { p with hist := pushSample p.hist x }, edge := .none }) := by
  unfold debounce
  by_cases h1 : pushSample p.hist x &&& mask64 p.n.toNat = mask64 p.n.toNat ∧ p.lvl = false
  · left; exact ⟨h1.1, h1.2, by simp [h1]⟩
  · by_cases h2 : pushSample p.hist x &&& mask64 p.n.toNat = 0#64 ∧ p.lvl = true
    · right; left; exact ⟨h2.1, h2.2, by simp only [if_neg h1, if_pos h2]⟩
    · right; right; exact ⟨h1, h2, by simp only [if_neg h1, if_neg h2]⟩

@[simp] theorem debounce_hist (p : Pin) (x : Bool) : (debounce p x).pin.hist = pushSample p.hist x := by
  rcases debounce_cases p x with ⟨-, -, h⟩ | ⟨-, -, h⟩ | ⟨-, -, h⟩ <;> rw [h]
@[simp] theorem debounce_n (p : Pin) (x : Bool) : (debounce p x).pin.n = p.n := by
  rcases debounce_cases p x with ⟨-, -, h⟩ | ⟨-, -, h⟩ | ⟨-, -, h⟩ <;> rw [h]
@[simp] theorem debounce_sync1 (p : Pin) (x : Bool) : (debounce p x).pin.sync1 = p.sync1 := by
  rcases debounce_cases p x with ⟨-, -, h⟩ | ⟨-, -, h⟩ | ⟨-, -, h⟩ <;> rw [h]
@[simp] theorem debounce_sync2 (p : Pin) (x : Bool) : (debounce p x).pin.sync2 = p.sync2 := by
  rcases debounce_cases p x with ⟨-, -, h⟩ | ⟨-, -, h⟩ | ⟨-, -, h⟩ <;> rw [h]

/-- The pushed history bit by bit (R251). -/
theorem pushSample_getLsbD (hist : BitVec 64) (x : Bool) (j : Nat) :
    (pushSample hist x).getLsbD j = (decide (j < 64) && if j = 0 then x else hist.getLsbD (j - 1)) := by
  unfold pushSample
  cases x <;> cases j <;> simp

/-- `mask(n)` bit by bit (R8). -/
theorem mask64_getLsbD (n j : Nat) : (mask64 n).getLsbD j = (decide (j < 64) && decide (j < n)) := by
  simp [mask64, BitVec.getLsbD_ofNat, Nat.testBit_two_pow_sub_one]

/-! The poll part of a cycle. -/

@[simp] theorem pollCycle_false (cfg : Config) (ps : Pins) (q : QState) :
    pollCycle false cfg ps q = { pins := ps, qst := q, r := 0, pressSet := false } := rfl
@[simp] theorem pollCycle_true (cfg : Config) (ps : Pins) (q : QState) : pollCycle true cfg ps q = poll cfg ps q := rfl

@[simp] theorem poll_pins_get (cfg : Config) (ps : Pins) (q : QState) (p : PinId) :
    (poll cfg ps q).pins.get p = (debounce (ps.get p) (ps.get p).sync2).pin := by
  cases p <;> rfl

/-- A decoder tick is -1, 0 or +1 (R232). -/
theorem tag_tick_cases (t : Tag) : Tag.tick t = 0 ∨ Tag.tick t = -1 ∨ Tag.tick t = 1 := by
  cases t <;> simp [Tag.tick]

/-- A poll tick's rotation tick is -1, 0 or +1 (R272). -/
theorem pollCycle_r_cases (tick : Bool) (cfg : Config) (ps : Pins) (q : QState) :
    (pollCycle tick cfg ps q).r = 0 ∨ (pollCycle tick cfg ps q).r = -1 ∨ (pollCycle tick cfg ps q).r = 1 := by
  cases tick with
  | false => simp
  | true =>
    simp only [pollCycle_true, poll]
    split
    · exact tag_tick_cases _
    · simp

/-! The merge (R275). -/

@[simp] theorem mergeDelta_clear (delta : BitVec 2) : mergeDelta 0 true delta = 0#2 := rfl
@[simp] theorem mergeDelta_keep (delta : BitVec 2) : mergeDelta 0 false delta = delta := rfl
@[simp] theorem mergePress_set (clrP press : Bool) : mergePress true clrP press = true := rfl
@[simp] theorem mergePress_clear (press : Bool) : mergePress false true press = false := rfl
@[simp] theorem mergePress_keep (press : Bool) : mergePress false false press = press := rfl

end Sys2Proof.Machine
end

