-- ==== Sys2Proof/Laws/Exec.lean ====
section
/-! SUPPORT. What an instruction and a step can do, said once: every instruction's cycle is `runCycle` of one `HostOp`,
and a step is a reset, an instruction's cycle or an idle cycle. -/

namespace Sys2Proof.Machine

/-- What a command asks of its cycle, without the read that may go along with it. -/
def commandOp (c : Command) (s : State) : HostOp :=
  match c with
  | .nop => { wr := s }
  | .clear => { wr := { s with m := .off } }
  | .setpix row col pm => { wr := { s with m := s.m.setPixel row col pm } }
  | .clrpix row col pm => { wr := { s with m := s.m.clearPixel row col pm } }
  | .wrframe => { wr := wrframeWrites s }
  | .dispctrl on bri => { wr := dispctrlWrites on bri s }
  | .poll => { wr := s, tick := true }
  | .evclr cd cp => { wr := s, clrD := cd, clrP := cp }
  | .illegal _ => { wr := raise .cmdErr s }

/-- What an instruction asks of its cycle. -/
def instrOp (i : Instr) (s : State) : HostOp :=
  match i with
  | .nop => (commandOp .nop s).withRead 0#3 s
  | .clear => (commandOp .clear s).withRead 0#3 s
  | .setpix row col pm => (commandOp (.setpix row col pm) s).withRead 0#3 s
  | .clrpix row col pm => (commandOp (.clrpix row col pm) s).withRead 0#3 s
  | .wrframe => (commandOp .wrframe s).withRead 0#3 s
  | .dispctrl on bri => (commandOp (.dispctrl on bri) s).withRead 0#3 s
  | .poll => (commandOp .poll s).withRead 0#3 s
  | .evclr cd cp => (commandOp (.evclr cd cp) s).withRead 0#3 s
  | .illegal w => (commandOp (.illegal w) s).withRead 0#3 s
  | .rdCmd => readOp 0#3 s
  | .rdStatus => readOp 1#3 s
  | .rdEvents => readOp 2#3 s
  | .rdEventsRc => readOp 3#3 s
  | .rdConfig => readOp 4#3 s
  | .rdDelay => readOp 5#3 s
  | .rdRsvd x => readOp (0b11#2 ++ BitVec.ofBool x) s
  | .wrCmd w => (commandOp (decodeCommand w) s).withRead 0#3 s
  | .wrStatus w =>
    HostOp.withRead { wr := acknowledge .cmdErr (w.getLsbD 2) (acknowledge .overrun (w.getLsbD 1) s) } 1#3 s
  | .wrEvents _ => HostOp.withRead { wr := s } 2#3 s
  | .wrEventsRc _ => HostOp.withRead { wr := s } 3#3 s
  | .wrConfig w => HostOp.withRead { wr := { s with pins := s.pins.withConfig w } } 4#3 s
  | .wrDelay w => HostOp.withRead { wr := { s with delay := warlDelay s.delay (w.extractLsb' 0 16) } } 5#3 s
  | .wrRsvd x _ => HostOp.withRead { wr := s } (0b11#2 ++ BitVec.ofBool x) s

/-- Every instruction completes, and its cycle is `runCycle` of its operation. -/
theorem exec_eq_runCycle (i : Instr) (s : State) : exec i s = .next (runCycle (instrOp i s) s) := by
  cases i with
  | wrCmd w => simp only [exec, execWrCmd, instrOp]; cases decodeCommand w <;> rfl
  | _ => rfl

/-- The host's own write of any instruction never touches the parameters. -/
theorem instrOp_cfg (i : Instr) (s : State) : (instrOp i s).wr.cfg = s.cfg := by
  have hc : ∀ c : Command, (commandOp c s).wr.cfg = s.cfg := by
    intro c
    cases c with
    | wrframe => simp only [commandOp, wrframeWrites]; split <;> rfl
    | dispctrl on bri => simp only [commandOp, dispctrlWrites]; split <;> rfl
    | _ => rfl
  cases i <;> simp [instrOp, hc]

/-- Nor the decoder state, DELTA or PRESS, which only the poll part and the merge write. -/
theorem instrOp_input_side (i : Instr) (s : State) :
    (instrOp i s).wr.qst = s.qst ∧ (instrOp i s).wr.delta = s.delta ∧ (instrOp i s).wr.press = s.press := by
  have hc : ∀ c : Command,
      (commandOp c s).wr.qst = s.qst ∧ (commandOp c s).wr.delta = s.delta ∧ (commandOp c s).wr.press = s.press := by
    intro c
    cases c with
    | wrframe => simp only [commandOp, wrframeWrites]; split <;> exact ⟨rfl, rfl, rfl⟩
    | dispctrl on bri => simp only [commandOp, dispctrlWrites]; split <;> exact ⟨rfl, rfl, rfl⟩
    | _ => exact ⟨rfl, rfl, rfl⟩
  cases i <;> simp [instrOp, hc]

/-- Everything a step can do. -/
theorem step_cases {s t : State} (h : step s = .next t) :
    (s.now.rst = true ∧
      t = .resetOf s.cfg (s.env.advance (if s.now.busRe then readReg s s.now.busAddr else 0#32))) ∨
    (s.now.rst = false ∧ ∃ i, fetch s.now = some i ∧ t = runCycle (instrOp i s) s) ∨
    (s.now.rst = false ∧ fetch s.now = none ∧ t = runCycle { wr := s } s) := by
  unfold step at h
  cases hr : s.now.rst with
  | true => left; simp only [hr, if_true, resetCycle] at h; injection h with h; exact ⟨rfl, h.symm⟩
  | false =>
    right
    rw [hr] at h
    cases hf : fetch s.now with
    | some i =>
      left
      simp only [hf, exec_eq_runCycle] at h
      injection h with h
      exact ⟨rfl, i, rfl, h.symm⟩
    | none =>
      right
      simp only [hf, idleCycle] at h
      injection h with h
      exact ⟨rfl, rfl, h.symm⟩

/-- A step always answers a next state: FSID never stops (R326, R334). -/
theorem step_next (s : State) : ∃ t, step s = .next t := by
  unfold step
  cases s.now.rst with
  | true => exact ⟨_, rfl⟩
  | false =>
    cases fetch s.now with
    | some i => exact ⟨_, exec_eq_runCycle i s⟩
    | none => exact ⟨_, rfl⟩

/-- The own parts of a cycle, for any host operation. -/
theorem runCycle_ownParts (op : HostOp) (s : State) :
    OwnParts (s.now.pollTick || op.tick) op.clrD op.clrP s (runCycle op s) where
  cfg := rfl
  sync1 := by intro p; cases p <;> rfl
  sync2 := by
    intro p
    cases hb : (s.now.pollTick || op.tick) <;> simp [hb]
  hist := by intro p; cases p <;> rfl
  lvl := by intro p; cases p <;> rfl
  qst := rfl
  delta := rfl
  press := rfl

end Sys2Proof.Machine
end

