-- ==== Sys2Proof/Laws/PerInstr.lean ====
section
/-! SUPPORT. The per-instruction families: for each, its statement about one instruction and one lemma per constructor.
RoundTrip: the bytes of a well-formed instruction decode to it. -/

namespace Sys2Proof

theorem wordOfBytes_bytes (w : Word) :
    wordOfBytes (w.extractLsb' 0 8) (w.extractLsb' 8 8) (w.extractLsb' 16 8) (w.extractLsb' 24 8) = w := by
  apply BitVec.eq_of_getLsbD_eq
  intro i hi
  simp only [wordOfBytes, BitVec.getLsbD_append, BitVec.getLsbD_extractLsb']
  by_cases h1 : i < 8
  · simp [h1]
  · by_cases h2 : i - 8 < 8
    · simp [h1, h2, show 8 + (i - 8) = i by omega]
    · by_cases h3 : i - 8 - 8 < 8
      · simp [h1, h2, h3, show 16 + (i - 8 - 8) = i by omega]
      · simp [h1, h2, h3, show i - 8 - 8 - 8 < 8 by omega, show 24 + (i - 8 - 8 - 8) = i by omega]

/-- A command's bytes decode to what `Decode` makes of its word. -/
theorem decode_bytesOfWord (w : Word) : decode (bytesOfWord w) = .ok (decodeCommand w).toInstr := by
  simp only [bytesOfWord, decode, wordOfBytes_bytes]

/-- A descriptor byte and a data word decode to the bus operation of the descriptor. -/
theorem decode_descriptor (d : BitVec 4) (w : Word) :
    decode ((0#4 ++ d) :: bytesOfWord w) = .ok (decodeOperation d w) := by
  have hhi : (0#4 ++ d).extractLsb' 4 4 = 0#4 := by revert d; decide
  have hlo : (0#4 ++ d).extractLsb' 0 4 = d := by revert d; decide
  simp only [bytesOfWord, decode, wordOfBytes_bytes, hhi, hlo, if_true]

/-- The fields of format PIX as its encoding lays them out (R112). -/
theorem pix_fields (op : BitVec 4) (row col : BitVec 5) (pm : BitVec 2) (w : Word)
    (hw : w = op ++ 0#16 ++ pm ++ col ++ row) :
    w.extractLsb' 28 4 = op ∧ w.extractLsb' 12 16 = 0#16 ∧ w.extractLsb' 0 5 = row ∧ w.extractLsb' 5 5 = col ∧
      w.extractLsb' 10 2 = pm := by
  subst hw
  refine ⟨?_, ?_, ?_, ?_, ?_⟩ <;> apply BitVec.eq_of_getLsbD_eq <;> intro i hi <;>
    simp only [BitVec.getLsbD_append, BitVec.getLsbD_extractLsb', hi, decide_true, Bool.true_and]
  · simp [show ¬ 28 + i < 5 by omega, show ¬ 28 + i - 5 < 5 by omega, show ¬ 28 + i ≤ 11 by omega,
      show ¬ 28 + i - 5 - 5 - 2 < 16 by omega, show 28 + i - 5 - 5 - 2 - 16 = i by omega]
  · simp [show ¬ 12 + i < 5 by omega, show ¬ 12 + i - 5 < 5 by omega, show 12 + i - 5 - 5 - 2 < 16 by omega,
      show ¬ 12 + i ≤ 11 by omega]
  · simp [hi]
  · simp [show ¬ 5 + i < 5 by omega, hi]
  · simp [show ¬ 10 + i < 5 by omega, show ¬ 10 + i - 5 < 5 by omega, show ¬ 1 < i by omega,
      show 10 + i - 5 - 5 = i by omega]

/-- A field is zero exactly when the word has no bit in the field's mask. -/
theorem and_mask_eq_zero_iff (w mask : Word) (lo len : Nat)
    (hm : ∀ i < 32, mask.getLsbD i = (decide (lo ≤ i) && decide (i < lo + len))) (hl : lo + len ≤ 32) :
    w &&& mask = 0#32 ↔ w.extractLsb' lo len = 0#len := by
  constructor
  · intro h
    apply BitVec.eq_of_getLsbD_eq
    intro i hi
    have hb := congrArg (fun v => BitVec.getLsbD v (lo + i)) h
    simp only [BitVec.getLsbD_and, hm (lo + i) (by omega), BitVec.getLsbD_zero] at hb
    simpa [hi] using hb
  · intro h
    apply BitVec.eq_of_getLsbD_eq
    intro i hi
    simp only [BitVec.getLsbD_and, hm i hi, BitVec.getLsbD_zero]
    by_cases hlo : lo ≤ i ∧ i < lo + len
    · have hb := congrArg (fun v => BitVec.getLsbD v (i - lo)) h
      simp only [BitVec.getLsbD_extractLsb', show i - lo < len by omega, show lo + (i - lo) = i by omega] at hb
      simpa [hlo] using hb
    · have : ¬ (lo ≤ i) ∨ ¬ (i < lo + len) := by omega
      rcases this with h' | h' <;> simp [h']

/-- Bit 31 clear and OP below 8 are the same. -/
theorem op_lt_of_msb {w : Word} (h : w.getLsbD 31 = false) : (w.extractLsb' 28 4).toNat < 8 := by
  have key : ∀ op : BitVec 4, op.getLsbD 3 = false → op.toNat < 8 := by decide
  exact key _ (by simpa using h)

/-- A word that R116 calls illegal is what `Decode` (R117) calls ILLEGAL. -/
theorem decodeCommand_of_illegalWord {w : Word} (h : illegalWord w = true) : decodeCommand w = .illegal w := by
  have n28 : ∀ v : Word, v &&& 0x0FFFFFFF#32 = 0#32 ↔ v.extractLsb' 0 28 = 0#28 := fun v =>
    and_mask_eq_zero_iff v _ 0 28 (by decide) (by decide)
  have n16 : ∀ v : Word, v &&& 0x0FFFF000#32 = 0#32 ↔ v.extractLsb' 12 16 = 0#16 := fun v =>
    and_mask_eq_zero_iff v _ 12 16 (by decide) (by decide)
  have n24 : ∀ v : Word, v &&& 0x0FFFFFF0#32 = 0#32 ↔ v.extractLsb' 4 24 = 0#24 := fun v =>
    and_mask_eq_zero_iff v _ 4 24 (by decide) (by decide)
  have n26 : ∀ v : Word, v &&& 0x0FFFFFFC#32 = 0#32 ↔ v.extractLsb' 2 26 = 0#26 := fun v =>
    and_mask_eq_zero_iff v _ 2 26 (by decide) (by decide)
  cases hm : w.getLsbD 31 with
  | true =>
    have key : ∀ op : BitVec 4, op.getLsbD 3 = true → 8 ≤ op.toNat := by decide
    have h8 : 8 ≤ (w.extractLsb' 28 4).toNat := key _ (by simpa using hm)
    unfold decodeCommand
    split <;> first | omega | rfl
  | false =>
    simp only [illegalWord, hm, Bool.false_or, bne_iff_ne] at h
    unfold decodeCommand
    have hop : ∀ k : Nat, (w.extractLsb' 28 4).toNat = k → w.extractLsb' 28 4 = BitVec.ofNat 4 k := by
      intro k hk
      apply BitVec.eq_of_toNat_eq
      rw [BitVec.toNat_ofNat, ← hk, Nat.mod_eq_of_lt (BitVec.isLt _)]
    split
    all_goals first
      | rfl
      | (rename_i hk
         have ho := hop _ hk
         rw [ho] at h
         rw [if_neg]
         first
           | rw [← n28]; exact h
           | rw [← n16]; exact h
           | rw [← n24]; exact h
           | rw [← n26]; exact h)

/-- The family: an instruction's bytes decode to it. -/
def Laws.RoundTrip.Statement (i : Instr) : Prop := i.wf = true → decode (encode i) = .ok i

namespace Laws.RoundTrip

/-- A command's bytes decode to it as soon as its word does. -/
theorem of_command {i : Instr} {c : Command} (hi : i.isCommand = true) (hs : i.signals.wdata = encodeCommand c)
    (hc : decodeCommand (encodeCommand c) = c) (ht : c.toInstr = i) : decode (encode i) = .ok i := by
  rw [encode, if_pos hi, hs, decode_bytesOfWord, hc, ht]

/-- A bus operation's bytes decode to it as soon as its descriptor does. -/
theorem of_operation {i : Instr} (hi : i.isCommand = false)
    (hd : decodeOperation (BitVec.ofBool i.signals.we ++ i.signals.addr) i.signals.wdata = i) :
    decode (encode i) = .ok i := by
  have h := decode_descriptor (BitVec.ofBool i.signals.we ++ i.signals.addr) i.signals.wdata
  rw [hd] at h
  rw [encode, if_neg (by simp [hi])]
  exact h

theorem nop : Statement .nop := fun _ => by decide
theorem clear : Statement .clear := fun _ => by decide
theorem setpix (row col : BitVec 5) (pm : BitVec 2) : Statement (.setpix row col pm) := fun _ => by
  obtain ⟨h1, h2, h3, h4, h5⟩ := pix_fields 0x2#4 row col pm _ rfl
  refine of_command (c := .setpix row col pm) rfl rfl ?_ rfl
  simp only [decodeCommand, encodeCommand, h1, h2, h3, h4, h5]
  rfl
theorem clrpix (row col : BitVec 5) (pm : BitVec 2) : Statement (.clrpix row col pm) := fun _ => by
  obtain ⟨h1, h2, h3, h4, h5⟩ := pix_fields 0x3#4 row col pm _ rfl
  refine of_command (c := .clrpix row col pm) rfl rfl ?_ rfl
  simp only [decodeCommand, encodeCommand, h1, h2, h3, h4, h5]
  rfl
theorem wrframe : Statement .wrframe := fun _ => by decide
theorem dispctrl (on : Bool) (bri : BitVec 3) : Statement (.dispctrl on bri) := fun _ => by
  refine of_command (c := .dispctrl on bri) rfl rfl ?_ rfl
  revert on bri; decide
theorem poll : Statement .poll := fun _ => by decide
theorem evclr (cd cp : Bool) : Statement (.evclr cd cp) := fun _ => by
  refine of_command (c := .evclr cd cp) rfl rfl ?_ rfl
  revert cd cp; decide
theorem illegal (w : Word) : Statement (.illegal w) := fun h =>
  of_command (c := .illegal w) rfl rfl (decodeCommand_of_illegalWord h) rfl
theorem rdCmd : Statement .rdCmd := fun _ => by decide
theorem rdStatus : Statement .rdStatus := fun _ => by decide
theorem rdEvents : Statement .rdEvents := fun _ => by decide
theorem rdEventsRc : Statement .rdEventsRc := fun _ => by decide
theorem rdConfig : Statement .rdConfig := fun _ => by decide
theorem rdDelay : Statement .rdDelay := fun _ => by decide
theorem rdRsvd (x : Bool) : Statement (.rdRsvd x) := fun _ => by cases x <;> decide
theorem wrCmd (w : Word) : Statement (.wrCmd w) := fun _ => of_operation rfl (by simp [Instr.signals, decodeOperation])
theorem wrStatus (w : Word) : Statement (.wrStatus w) := fun _ => of_operation rfl (by simp [Instr.signals, decodeOperation])
theorem wrEvents (w : Word) : Statement (.wrEvents w) := fun _ => of_operation rfl (by simp [Instr.signals, decodeOperation])
theorem wrEventsRc (w : Word) : Statement (.wrEventsRc w) := fun _ => of_operation rfl (by simp [Instr.signals, decodeOperation])
theorem wrConfig (w : Word) : Statement (.wrConfig w) := fun _ => of_operation rfl (by simp [Instr.signals, decodeOperation])
theorem wrDelay (w : Word) : Statement (.wrDelay w) := fun _ => of_operation rfl (by simp [Instr.signals, decodeOperation])
theorem wrRsvd (x : Bool) (w : Word) : Statement (.wrRsvd x w) := fun _ => by
  cases x <;> exact of_operation rfl (by simp [Instr.signals, decodeOperation])

end Laws.RoundTrip

end Sys2Proof
end

