-- ==== Sys2Proof/Machine/Script.lean ====
section
/-! DEFINITION. The host-script notation of 30_encoding.md R122 to R124: its statements as lists of cycle inputs, its
pseudo-instructions with their range check, and a run of a script that collects the values read. It is how a program
comes to the machine: FSID itself runs none (R46). -/

namespace Sys2Proof.Machine

/-- A base statement (R122). A word address stands for the register's name; `tick` is the suffix `+TICK`. -/
inductive Stmt where
  | wr (addr : BitVec 3) (imm : Word) (tick : Bool)
  | rd (addr : BitVec 3) (tick : Bool)
  | rw (addr : BitVec 3) (imm : Word) (tick : Bool)
  | idle (n : Nat)
  | pins (a b sw : Bool)
  | tick
  | reset
deriving DecidableEq, Repr

/-- The pin levels a script holds from one statement to the next. -/
structure Levels where
  a  : Bool
  b  : Bool
  sw : Bool
deriving DecidableEq, Repr

/-- "Before the first `PINS`, the pins are at 1, 1, 1" (R122). -/
def Levels.before : Levels := { a := true, b := true, sw := true }

/-- An idle cycle with the held levels. -/
def Levels.idle (l : Levels) : CycleIn :=
  { benchIdle with encA := l.a, encB := l.b, encSw := l.sw }

/-- The levels after a statement. -/
def Stmt.levels (l : Levels) : Stmt → Levels
  | .pins a b sw => { a := a, b := b, sw := sw }
  | .wr _ _ _ => l
  | .rd _ _ => l
  | .rw _ _ _ => l
  | .idle _ => l
  | .tick => l
  | .reset => l

/-- The cycles of a statement (R122). `PINS` takes effect "from this cycle on" and is one idle bus cycle. -/
def Stmt.cycles (l : Levels) : Stmt → List CycleIn
  | .wr addr imm t => [{ l.idle with busWe := true, busAddr := addr, busWdata := imm, pollTick := t }]
  | .rd addr t => [{ l.idle with busRe := true, busAddr := addr, pollTick := t }]
  | .rw addr imm t => [{ l.idle with busWe := true, busRe := true, busAddr := addr, busWdata := imm, pollTick := t }]
  | .idle n => List.replicate n l.idle
  | .pins a b sw => [Levels.idle { a := a, b := b, sw := sw }]
  | .tick => [{ l.idle with pollTick := true }]
  | .reset => [{ l.idle with rst := true }]

/-- Does the statement name the value it reads (`-> name`)? -/
def Stmt.reads : Stmt → Bool
  | .rd _ _ => true
  | .rw _ _ _ => true
  | .wr _ _ _ => false
  | .idle _ => false
  | .pins _ _ _ => false
  | .tick => false
  | .reset => false

/-- A field of an assembled word: an operand out of its field's range is an assembly error (R123). -/
def asmField (w v : Nat) : Option (BitVec w) := if v < 2 ^ w then some (BitVec.ofNat w v) else none

/-- One `WR CMD` (R123). -/
def asmCommand (c : Command) : Stmt := .wr 0#3 (encodeCommand c) false

/-- The pseudo-instructions with operands (R123); those without are `asmCommand` of their command. -/
def asmSetpix (r c pm : Nat) : Option Stmt := do
  return asmCommand (.setpix (← asmField 5 r) (← asmField 5 c) (← asmField 2 pm))
def asmClrpix (r c pm : Nat) : Option Stmt := do
  return asmCommand (.clrpix (← asmField 5 r) (← asmField 5 c) (← asmField 2 pm))
def asmDispctrl (on bri : Nat) : Option Stmt := do
  return asmCommand (.dispctrl ((← asmField 1 on).getLsbD 0) (← asmField 3 bri))
def asmEvclr (cd cp : Nat) : Option Stmt := do
  return asmCommand (.evclr ((← asmField 1 cd).getLsbD 0) ((← asmField 1 cp).getLsbD 0))

/-- A line of a script: a base statement, or `WAITIDLE`, whose length depends on what it reads (R124). -/
inductive Line where
  | stmt (s : Stmt)
  | waitIdle
deriving DecidableEq, Repr

/-- `SAMPLE a, b, sw` (R124). -/
def sampleLines (a b sw : Bool) : List Line := [.stmt (.pins a b sw), .stmt (.idle 1), .stmt (asmCommand .poll)]

/-- `FRAME` (R124). -/
def frameLines : List Line := [.stmt (asmCommand .wrframe), .waitIdle]

/-- Run the listed cycles, one step each; `none` where a step stops. -/
def runCycles : List CycleIn → State → Option State
  | [], s => some s
  | c :: cs, s =>
    match step { s with env := { s.env with inputs := c :: s.env.inputs } } with
    | .next t => runCycles cs t
    | .fault _ => none
    | .refused _ => none

/-- `WAITIDLE`: read STATUS until BUSY reads 0 (R124), with at most `fuel` reads; the values read come last first. -/
def runWaitIdle (l : Levels) : Nat → State → List Word → Option (State × List Word)
  | 0, _, _ => none
  | fuel + 1, s, seen =>
    match runCycles (Stmt.cycles l (.rd 1#3 false)) s with
    | none => none
    | some t =>
      if t.env.rdata.getLsbD 0 then runWaitIdle l fuel t (t.env.rdata :: seen)
      else some (t, t.env.rdata :: seen)

/-- Run a script from `s`; the answer is the last state and the named values read, in order. `fuel` bounds each
`WAITIDLE`. -/
def runScript (fuel : Nat) : Levels → List Line → State → Option (State × List Word)
  | _, [], s => some (s, [])
  | l, .stmt x :: rest, s =>
    match runCycles (x.cycles l) s with
    | none => none
    | some t =>
      match runScript fuel (x.levels l) rest t with
      | none => none
      | some (u, vs) => some (u, if x.reads then t.env.rdata :: vs else vs)
  | l, .waitIdle :: rest, s =>
    match runWaitIdle l fuel s [] with
    | none => none
    | some (t, _) => runScript fuel l rest t

end Sys2Proof.Machine
end

