-- ==== Sys2Proof/Tests/Slice0.lean ====
section
/-! SUPPORT. The model's own tests: decoding, well-formedness, one-step vectors of 95_test_vectors.md, and for every
obligation with hypotheses a concrete state and operands that meet all of them together. Expected values are the
spec's: its tables, its examples, or a hand calculation from the rule named. -/

namespace Sys2Proof.Tests

open Sys2Proof.Machine

-- one theorem at a time: each kernel evaluation otherwise holds a thread of its own
set_option Elab.async false

/-! ## Helpers -/

/-- Does the result answer a next state with the property? -/
def holds (r : Result) (P : State → Prop) [DecidablePred P] : Bool :=
  match r with
  | .next t => decide (P t)
  | .fault _ => false
  | .refused _ => false

theorem holds_next {r : Result} {P : State → Prop} [DecidablePred P] (h : holds r P = true) :
    ∃ t, r = .next t ∧ P t := by
  cases r with
  | next t => exact ⟨t, rfl, by simpa [holds] using h⟩
  | fault f => cases f
  | refused x => simp [holds] at h

/-- The reset state with the default parameters, in front of the cycle `c`. -/
def bench (c : CycleIn) : State := .resetOf .default { inputs := [c], drawn := 0, rdata := 0 }

/-- In front of an idle cycle, pins at 1, 1, 1. -/
def s0 : State := bench benchIdle

/-- A cycle that writes, one that reads, one with `rst = 1`. -/
def wrC (a : BitVec 3) (w : Word) : CycleIn := { benchIdle with busWe := true, busAddr := a, busWdata := w }
def rdC (a : BitVec 3) : CycleIn := { benchIdle with busRe := true, busAddr := a }
def rstC : CycleIn := { benchIdle with rst := true }

/-- The same state before another cycle. -/
def before (s : State) (c : CycleIn) : State := { s with env := { s.env with inputs := [c] } }

/-- Pixel (0, 0) lit in both planes. -/
def lit : State := { s0 with m := Matrix.off.setPixel 0 0 0b11 }

/-- The first event of a frame of the zero snapshot is on the lines, with DL = 1. -/
def busy : State :=
  { s0 with ser := Serializer.reset.start .default 1 .frame }

/-- Both sticky bits, a pending step and a press. -/
def flagged : State := { s0 with ovr := true, cmderr := true, delta := 0b11, press := true }

/-- Depth 1 on every pin, and the second flop of A at 0: the next poll tick is a fall of A, so a step from START to
CW1 under the default table (R231). -/
def turning : State :=
  { s0 with pins := { a := { s0.pins.a with n := 1, sync2 := false }, b := { s0.pins.b with n := 1 },
                      sw := { s0.pins.sw with n := 1 } } }

/-- The last phase of a clockwise detent: CW3, B at 0 with its second flop back at 1 (R276's example). -/
def closing : State :=
  { turning with
    qst := .cw3
    pins := { turning.pins with
      a := { turning.pins.a with sync2 := true }, b := { turning.pins.b with lvl := false } } }

/-- The button's second flop at 0, depth 1: the next poll tick is a press. -/
def pressing : State := { s0 with pins := { s0.pins with sw := { s0.pins.sw with n := 1, sync2 := false } } }

/-! ## Decoding: the words of R115 and the descriptors of R119, written out bit by bit -/

theorem test_decode_nop : decodeTableWord 32 0b0000_0000000000000000000000000000 = some .nop := by decide
theorem test_decode_clear : decodeTableWord 32 0b0001_0000000000000000000000000000 = some .clear := by decide
theorem test_decode_setpix :
    decodeTableWord 32 0b0010_0000000000000000_11_01010_00101 = some (.setpix 5 10 0b11) := by decide
theorem test_decode_setpix_max :
    decodeTableWord 32 0b0010_0000000000000000_10_11111_11111 = some (.setpix 31 31 0b10) := by decide
theorem test_decode_clrpix :
    decodeTableWord 32 0b0011_0000000000000000_01_00100_00011 = some (.clrpix 3 4 0b01) := by decide
theorem test_decode_wrframe : decodeTableWord 32 0b0100_0000000000000000000000000000 = some .wrframe := by decide
theorem test_decode_dispctrl :
    decodeTableWord 32 0b0101_000000000000000000000000_1_010 = some (.dispctrl true 2) := by decide
theorem test_decode_poll : decodeTableWord 32 0b0110_0000000000000000000000000000 = some .poll := by decide
theorem test_decode_evclr : decodeTableWord 32 0b0111_00000000000000000000000000_0_1 = some (.evclr true false) := by
  decide
theorem test_decode_evclr_press :
    decodeTableWord 32 0b0111_00000000000000000000000000_1_0 = some (.evclr false true) := by decide
theorem test_decode_illegal_op :
    decodeTableWord 32 0b1000_0000000000000000000000000000 = some (.illegal 0x80000000) := by decide

/-- The words of V-D that R116 calls illegal, one per format and reserved field. -/
theorem test_decode_illegal_reserved :
    [0x00000001#32, 0x1FFFFFFF#32, 0x20001000#32, 0x38000000#32, 0x40000001#32, 0x50000010#32, 0x68000000#32,
      0x70000004#32, 0xF0000000#32, 0xFFFFFFFF#32].all (fun w => decodeCommand w == .illegal w) = true := by decide

/-- The remaining legal words of V-D. -/
theorem test_decode_legal_words :
    decodeCommand 0x20000000 = .setpix 0 0 0b00 ∧ decodeCommand 0x20000400 = .setpix 0 0 0b01 ∧
    decodeCommand 0x20000FFF = .setpix 31 31 0b11 ∧ decodeCommand 0x30000C00 = .clrpix 0 0 0b11 ∧
    decodeCommand 0x5000000F = .dispctrl true 7 ∧ decodeCommand 0x50000008 = .dispctrl true 0 ∧
    decodeCommand 0x70000000 = .evclr false false ∧ decodeCommand 0x70000003 = .evclr true true := by decide

/-- Bytes, the least significant of each word first: the seven reads. -/
theorem test_decode_reads :
    decode [0b0000_0000, 0, 0, 0, 0] = .ok .rdCmd ∧ decode [0b0000_0001, 0, 0, 0, 0] = .ok .rdStatus ∧
    decode [0b0000_0010, 0, 0, 0, 0] = .ok .rdEvents ∧ decode [0b0000_0011, 0, 0, 0, 0] = .ok .rdEventsRc ∧
    decode [0b0000_0100, 0, 0, 0, 0] = .ok .rdConfig ∧ decode [0b0000_0101, 0, 0, 0, 0] = .ok .rdDelay ∧
    decode [0b0000_0110, 0, 0, 0, 0] = .ok (.rdRsvd false) ∧
    decode [0b0000_0111, 0, 0, 0, 0] = .ok (.rdRsvd true) := by decide

/-- The seven writes, with a data word that shows the byte order (log entry 5). -/
theorem test_decode_writes :
    decode [0b0000_1000, 0x45, 0x0D, 0x00, 0x20] = .ok (.wrCmd 0x20000D45) ∧
    decode [0b0000_1001, 0x06, 0, 0, 0] = .ok (.wrStatus 6) ∧
    decode [0b0000_1010, 0, 0, 0, 0x80] = .ok (.wrEvents 0x80000000) ∧
    decode [0b0000_1011, 1, 0, 0, 0] = .ok (.wrEventsRc 1) ∧
    decode [0b0000_1100, 0x03, 0x02, 0x01, 0] = .ok (.wrConfig 0x00010203) ∧
    decode [0b0000_1101, 5, 0, 1, 0] = .ok (.wrDelay 0x00010005) ∧
    decode [0b0000_1110, 9, 0, 0, 0] = .ok (.wrRsvd false 9) ∧
    decode [0b0000_1111, 9, 0, 0, 0] = .ok (.wrRsvd true 9) := by decide

/-- What is no instruction is rejected by name. -/
theorem test_decode_rejects :
    decode [] = .error (.wrongLength 0) ∧ decode [0, 0, 0] = .error (.wrongLength 3) ∧
    decode [0, 0, 0, 0, 0, 0] = .error (.wrongLength 6) ∧
    decode [0x10, 0, 0, 0, 0] = .error (.descriptorTooWide 0x10) ∧
    decodeTableWord 16 0 = none ∧ decodeTableWord 8 0x10 = none ∧ decodeTableWord 32 (2 ^ 32) = none := by decide

/-- Encodings from R123, and of CONFIG and EVENTS_RC in P2. -/
theorem test_encode :
    encode (.setpix 5 10 0b11) = [0x45, 0x0D, 0x00, 0x20] ∧ encode (.evclr false true) = [0x02, 0x00, 0x00, 0x70] ∧
    encode (.wrConfig 0x00400101) = [0x0C, 0x01, 0x01, 0x40, 0x00] ∧ encode .rdEventsRc = [0x03, 0, 0, 0, 0] := by
  decide

/-! ## Well-formedness: the one check refuses an `illegal` that carries a legal word, in every format -/

theorem test_wf_refuses :
    [0x00000000#32, 0x10000000#32, 0x20000FFF#32, 0x30000C00#32, 0x40000000#32, 0x5000000F#32, 0x60000000#32,
      0x70000003#32].all (fun w => !(Instr.illegal w).wf) = true := by decide
theorem test_wf_accepts :
    [0x00000001#32, 0x18000000#32, 0x20001000#32, 0x38000000#32, 0x40000001#32, 0x50000010#32, 0x60000100#32,
      0x70000004#32, 0x80000000#32, 0xFFFFFFFF#32].all (fun w => (Instr.illegal w).wf) = true := by decide

/-! ## The assembler of R123, and R122's and R124's expansions -/

theorem test_asm :
    asmSetpix 5 10 3 = some (.wr 0 0x20000D45 false) ∧ asmClrpix 3 4 0 = some (.wr 0 0x30000083 false) ∧
    asmDispctrl 1 7 = some (.wr 0 0x5000000F false) ∧ asmEvclr 0 1 = some (.wr 0 0x70000002 false) := by decide
theorem test_asm_range :
    asmSetpix 32 0 1 = none ∧ asmSetpix 0 32 1 = none ∧ asmClrpix 0 0 4 = none ∧ asmDispctrl 2 0 = none ∧
    asmDispctrl 0 8 = none ∧ asmEvclr 2 0 = none ∧ asmEvclr 0 2 = none := by decide
theorem test_sample_cycles :
    (sampleLines false true true).length = 3 ∧
    Stmt.cycles .before (.rw 3 0 true) =
      [{ benchIdle with busWe := true, busRe := true, busAddr := 3, pollTick := true }] := by decide

/-! ## One step per instruction -/

/-- R174. -/
theorem test_nop : holds (exec .nop lit) (fun t => t.m = lit.m ∧ t.ser = lit.ser ∧ t.env.inputs = []) = true := by
  decide +kernel
/-- V-F: CLEAR. -/
theorem test_clear : holds (exec .clear lit) (fun t => t.m = .off) = true := by decide +kernel
/-- V-E: CLEAR while BUSY is done, with no error. -/
theorem test_clear_busy :
    holds (exec .clear { busy with m := lit.m })
      (fun t => t.m = .off ∧ t.ovr = false ∧ t.cmderr = false ∧ t.ser.eidx = 1) = true := by decide +kernel
/-- V-F: `SETPIX 0, 0, A` from a cleared matrix, and B over it. -/
theorem test_setpix :
    holds (exec (.setpix 0 0 0b01) s0)
      (fun t => flag t.m.a 0 0 = true ∧ flag t.m.b 0 0 = false ∧ flag t.m.a 0 1 = false) = true := by decide +kernel
/-- V-F: `SETPIX 31, 31, AB` while BUSY; SNAP unchanged. -/
theorem test_setpix_busy :
    holds (exec (.setpix 31 31 0b11) busy)
      (fun t => flag t.m.a 31 31 = true ∧ flag t.m.b 31 31 = true ∧ t.ser.snap = .zero) = true := by decide +kernel
/-- V-F: `CLRPIX 0, 0, A` leaves B only. -/
theorem test_clrpix :
    holds (exec (.clrpix 0 0 0b01) lit) (fun t => flag t.m.a 0 0 = false ∧ flag t.m.b 0 0 = true) = true := by
  decide +kernel
/-- V-F: `CLRPIX 3, 4, 00` changes nothing. -/
theorem test_clrpix_none : holds (exec (.clrpix 3 4 0b00) lit) (fun t => t.m = lit.m) = true := by decide +kernel
/-- R154's example: with only (0, 0) lit, `SNAP[12][0] = 0x80`. -/
theorem test_wrframe :
    holds (exec .wrframe lit)
      (fun t => t.ser.snap.plane 12 0 = 0x80 ∧ t.ser.snap.plane 12 1 = 0x80 ∧ t.ser.snap.plane 3 0 = 0 ∧
        t.ser.busy = true ∧ t.ser.lines = ⟨true, 0⟩) = true := by decide +kernel
/-- V-E: WRFRAME while BUSY. -/
theorem test_wrframe_busy :
    holds (exec .wrframe busy) (fun t => t.ovr = true ∧ t.cmderr = false ∧ t.ser.eidx = 1 ∧ t.ser.busy = true)
      = true := by decide +kernel
/-- V-S3: `DISPCTRL 1, 7` gives the byte 0x8F; `DISPCTRL 0, 7` gives 0x87. -/
theorem test_dispctrl :
    holds (exec (.dispctrl true 7) s0) (fun t => t.ser.cb = 0x8F ∧ t.ser.kind = .ctrl ∧ t.ser.busy = true) = true ∧
    holds (exec (.dispctrl false 7) s0) (fun t => t.ser.cb = 0x87) = true := by decide +kernel
/-- V-E: DISPCTRL while BUSY leaves CB. -/
theorem test_dispctrl_busy :
    holds (exec (.dispctrl false 3) busy) (fun t => t.ovr = true ∧ t.ser.cb = 0) = true := by decide +kernel
/-- R276's example: DELTA = 11 and QST = START. -/
theorem test_poll :
    holds (exec .poll closing) (fun t => t.delta = 0b11 ∧ t.qst = .start ∧ t.pins.b.lvl = true) = true := by
  decide +kernel
/-- V-AG4: POLL with `poll_tick = 1` pushes one sample. -/
theorem test_poll_once :
    holds (exec .poll (before turning { benchIdle with pollTick := true }))
      (fun t => t.pins.a.hist = 0xFFFFFFFFFFFFFFFE#64 ∧ t.qst = .cw1) = true := by decide +kernel
/-- R277's example. -/
theorem test_evclr : holds (exec (.evclr false true) flagged) (fun t => t.press = false ∧ t.delta = 0b11) = true := by
  decide +kernel
/-- V-AG: an event wins over the clear. -/
theorem test_evclr_event :
    holds (exec (.evclr true true) (before { closing with delta := 0b01 } { benchIdle with pollTick := true }))
      (fun t => t.delta = 0b11) = true := by decide +kernel
/-- V-E: an illegal word while BUSY raises CmdErr only. -/
theorem test_illegal :
    holds (exec (.illegal 0x40000001) busy) (fun t => t.cmderr = true ∧ t.ovr = false ∧ t.ser.eidx = 1) = true := by
  decide +kernel

/-- V-BUS: the reads at reset; RD.CMD and the reserved addresses read 0. -/
theorem test_rdCmd : holds (exec .rdCmd flagged) (fun t => t.env.rdata = 0) = true := by decide +kernel
theorem test_rdStatus :
    holds (exec .rdStatus s0) (fun t => t.env.rdata = 0x00000000) = true ∧
    holds (exec .rdStatus flagged) (fun t => t.env.rdata = 0x0000000E) = true := by decide +kernel
theorem test_rdEvents :
    holds (exec .rdEvents s0) (fun t => t.env.rdata = 0x00000700) = true ∧
    holds (exec .rdEvents flagged) (fun t => t.env.rdata = 0x00000707 ∧ t.delta = 0b11 ∧ t.press = true) = true := by
  decide +kernel
/-- R295's example, with PRESS as well. -/
theorem test_rdEventsRc :
    holds (exec .rdEventsRc { s0 with delta := 0b11 }) (fun t => t.env.rdata = 0x00000703 ∧ t.delta = 0b00) = true := by
  decide +kernel
/-- P5, cycle 13: the read gives 0x660, and the tick's step wins over its clear. -/
theorem test_rdEventsRc_event :
    holds (exec .rdEventsRc
        (before { closing with
            qst := .ccw3
            pins := { closing.pins with
              a := { closing.pins.a with lvl := false }, b := { closing.pins.b with lvl := true } } }
          { rdC 3 with pollTick := true }))
      (fun t => t.env.rdata = 0x00000660 ∧ t.delta = 0b01 ∧ t.qst = .start) = true := by decide +kernel
theorem test_rdConfig : holds (exec .rdConfig s0) (fun t => t.env.rdata = 0x00404040) = true := by decide +kernel
/-- R297's example; DL of a transaction is not what it reads. -/
theorem test_rdDelay : holds (exec .rdDelay { busy with delay := 3 }) (fun t => t.env.rdata = 0x00000003) = true := by
  decide +kernel
theorem test_rdRsvd :
    holds (exec (.rdRsvd false) flagged) (fun t => t.env.rdata = 0) = true ∧
    holds (exec (.rdRsvd true) flagged) (fun t => t.env.rdata = 0) = true := by decide +kernel

/-- R299's example: `WR CMD, 0x10000000` is CLEAR; an illegal word sets CMDERR. -/
theorem test_wrCmd :
    holds (exec (.wrCmd 0x10000000) lit) (fun t => t.m = .off) = true ∧
    holds (exec (.wrCmd 0x80000000) lit) (fun t => t.m = lit.m ∧ t.cmderr = true) = true := by decide +kernel
/-- V-BUS: `WR STATUS` of 0x4, 0x1 and 0xFFFFFFFF with both bits set. -/
theorem test_wrStatus :
    holds (exec (.wrStatus 0x4) flagged) (fun t => t.ovr = true ∧ t.cmderr = false) = true ∧
    holds (exec (.wrStatus 0x1) flagged) (fun t => t.ovr = true ∧ t.cmderr = true) = true ∧
    holds (exec (.wrStatus 0xFFFFFFFF) flagged) (fun t => t.ovr = false ∧ t.cmderr = false) = true := by decide +kernel
/-- R301's example. -/
theorem test_wrEvents : holds (exec (.wrEvents 0x3) flagged) (fun t => t.delta = 0b11 ∧ t.press = true) = true := by
  decide +kernel
/-- V-BUS: a write to EVENTS_RC does not clear; a read beside it does. -/
theorem test_wrEventsRc : holds (exec (.wrEventsRc 0) flagged) (fun t => t.delta = 0b11 ∧ t.press = true) = true := by
  decide +kernel
theorem test_wrEventsRc_read :
    holds (exec (.wrEventsRc 0) (before { s0 with delta := 0b11 } { wrC 3 0 with busRe := true }))
      (fun t => t.env.rdata = 0x00000703 ∧ t.delta = 0b00) = true := by decide +kernel
/-- V-BUS: three CONFIG writes. -/
theorem test_wrConfig :
    holds (exec (.wrConfig 0x00010203) s0) (fun t => t.pins.a.n = 3 ∧ t.pins.b.n = 2 ∧ t.pins.sw.n = 1) = true ∧
    holds (exec (.wrConfig 0x007F4100) s0) (fun t => t.configWord = 0x00404040) = true := by decide +kernel
theorem test_wrConfig_mixed :
    holds (exec (.wrConfig 0xFF014001) s0) (fun t => t.pins.a.n = 1 ∧ t.pins.b.n = 64 ∧ t.pins.sw.n = 1) = true := by
  decide +kernel
/-- V-BUS: DELAY takes 65535 and ignores 0; V-S7: DL stays. -/
theorem test_wrDelay :
    holds (exec (.wrDelay 0x00010000) s0) (fun t => t.delay = 1) = true ∧
    holds (exec (.wrDelay 0x0000FFFF) s0) (fun t => t.delay = 65535) = true ∧
    holds (exec (.wrDelay 5) busy) (fun t => t.delay = 5 ∧ t.ser.dl = 1) = true := by decide +kernel
/-- R304's example. -/
theorem test_wrRsvd :
    holds (exec (.wrRsvd true 0xFFFFFFFF) s0) (fun t => t.cfg = s0.cfg ∧ t.ovr = false ∧ t.configWord = 0x00404040)
      = true := by decide +kernel

/-- V-S8: reset in a transaction. -/
theorem test_reset_step :
    holds (step (before busy rstC)) (fun t => t.ser.busy = false ∧ t.ser.lines = ⟨true, 0xFFFF⟩) = true := by
  decide +kernel
/-- R122: `TICK` is a poll tick without a bus access; `bus_rdata` is 0. -/
theorem test_idle_tick :
    holds (step (before pressing { benchIdle with pollTick := true })) (fun t => t.press = true ∧ t.env.rdata = 0)
      = true := by decide +kernel

/-- The loader: the very next step runs the placed instruction, as the first after reset. -/
theorem test_withFetchWord :
    holds (step (State.reset.withFetchWord 32 0x20000400)) (fun t => flag t.m.a 0 0 = true) = true ∧
    holds (step (State.reset.withFetchWord 32 0x80000000)) (fun t => t.cmderr = true) = true ∧
    holds (step (State.reset.withFetchWord 8 0b0100)) (fun t => t.env.rdata = 0x00404040) = true ∧
    holds (step (State.reset.withFetchWord 8 0b0010)) (fun t => t.env.rdata = 0x00000700) = true := by decide +kernel

/-! ## Parts: address map, programs, filter, decoder -/

/-- V-AM. -/
theorem test_address_map :
    addressMap 0 0 = (12, 7) ∧ addressMap 0 31 = (0, 0) ∧ addressMap 5 10 = (8, 45) ∧ addressMap 12 27 = (1, 36) ∧
    addressMap 17 20 = (6, 11) ∧ addressMap 31 0 = (15, 63) ∧ addressMap 31 31 = (3, 56) := by decide
theorem test_address_map_inv :
    addressMapInv 0 0 = (0, 31) ∧ addressMapInv 3 56 = (31, 31) ∧ addressMapInv 12 7 = (0, 0) ∧
    addressMapInv 15 63 = (31, 0) := by decide

/-- V-S2: events of `DISPCTRL 1, 7`. -/
theorem test_ctrl_program :
    (ctrlProgram 0x8F)[0]? = some ⟨true, 0⟩ ∧ (ctrlProgram 0x8F)[3]? = some ⟨true, 0xFFFF⟩ ∧
    (ctrlProgram 0x8F)[15]? = some ⟨true, 0⟩ ∧ (ctrlProgram 0x8F)[24]? = some ⟨true, 0xFFFF⟩ ∧
    (ctrlProgram 0x8F)[28]? = some ⟨true, 0xFFFF⟩ ∧ (ctrlProgram 0x8F)[29]? = none := by decide

/-- R199's example and V-S4: payload tick 7 in events 76 to 78, the command bytes in events 20 and 49. -/
theorem test_frame_program :
    let p := frameProgram .default (toPhys lit.m)
    p[20]? = some ⟨false, 0xFFFF⟩ ∧ p[23]? = some ⟨false, 0⟩ ∧ p[49]? = some ⟨false, 0xFFFF⟩ ∧
    p[77]? = some ⟨true, 0x1000⟩ ∧ p[80]? = some ⟨true, 0⟩ ∧ p[441]? = some ⟨true, 0xFFFF⟩ ∧ p[442]? = none := by
  decide +kernel

/-- V-DB7: a lower depth confirms at the next tick; R252's example. -/
theorem test_debounce :
    (debounce { s0.pins.a with n := 4, hist := 0xFFFFFFFFFFFFFFF0 } false).edge = .fall ∧
    (debounce { s0.pins.a with n := 4, hist := 0b0111, lvl := false } true).edge = .rise ∧
    (debounce { s0.pins.a with n := 4 } false).edge = .none := by decide

/-- V-Q6, V-Q7. -/
theorem test_quadrature_skip :
    qDecode .default .start 0b00 = (.illegal, 0) ∧ qDecode .default .illegal 0b01 = (.illegal, 0) ∧
    qDecode .default .illegal 0b11 = (.start, 0) ∧ qDecode .default .cw2 0b11 = (.illegal, 0) ∧
    qDecode .default .ccw1 0b01 = (.illegal, 0) ∧ qDecode .default .ccw3 0b10 = (.illegal, 0) := by decide

/-- V-AG1: both phases in one tick. -/
theorem test_poll_both :
    (poll .default { turning.pins with b := { turning.pins.b with sync2 := false } } .start).qst = .illegal ∧
    (poll .default { turning.pins with b := { turning.pins.b with sync2 := false } } .start).r = 0 := by decide

/-! ## Witnesses: for each obligation with hypotheses, and each of its clauses, a state and operands that meet them -/

theorem witness_DecodeInvertsEncode :
    (Instr.illegal 0x10000001).wf = true ∧ (Instr.setpix 31 0 0b00).wf = true ∧
    (Instr.wrCmd 0xFFFFFFFF).wf = true := by decide

/-- A word for each row, and for each disjunct of R116. -/
theorem witness_CommandDecodeFollowsMatchAndMask :
    0x20000FFF#32 &&& 0xFFFFF000#32 = 0x20000000#32 ∧ 0x5000000F#32 &&& 0xFFFFFFF0#32 = 0x50000000#32 ∧
    0x70000003#32 &&& 0xFFFFFFFC#32 = 0x70000000#32 ∧ decodeCommand 0x7FFFFFFF = .illegal 0x7FFFFFFF := by decide
theorem witness_IllegalWordSetsCmdErrOnly :
    decodeCommand 0x80000000 = .illegal 0x80000000 ∧ decodeCommand 0x60000001 = .illegal 0x60000001 ∧
    decodeCommand 0x30001000 = .illegal 0x30001000 ∧ decodeCommand 0x58000000 = .illegal 0x58000000 ∧
    decodeCommand 0x70000004 = .illegal 0x70000004 := by decide

/-- A command, a read and a write. -/
theorem witness_StepRunsThePresentedInstruction :
    ((Instr.setpix 5 10 0b11).wf = true ∧ (bench (wrC 0 0x20000D45)).now.presents (.setpix 5 10 0b11) = true) ∧
    (Instr.rdEventsRc.wf = true ∧ (bench (rdC 3)).now.presents .rdEventsRc = true) ∧
    ((Instr.wrRsvd true 9).wf = true ∧ (bench (wrC 7 9)).now.presents (.wrRsvd true 9) = true) := by decide

theorem witness_ResetCycleWritesEveryElement : (before busy rstC).now.rst = true := by decide

/-- A state inside a transaction meets the invariant, and steps. -/
theorem inv_busy : Inv busy where
  param := by decide
  delta := by decide
  depth := by intro p; cases p <;> decide
  delay := by decide
  idle := by decide
  index := by decide
  count := by decide
  event := by intro; rfl
theorem witness_EveryStepKeepsTheInvariant : ∃ t, Inv busy ∧ step busy = .next t := by
  obtain ⟨t, h⟩ := step_next busy
  exact ⟨t, inv_busy, h⟩

theorem witness_IdleCycleRunsOnlyItsOwnParts :
    busy.now.rst = false ∧ busy.now.busWe = false ∧ busy.now.busRe = false := by decide

/-- Each of the four writers. -/
theorem witness_MatrixHasOnlyItsFourWriters :
    (∃ t, step (before lit rstC) = .next t ∧ t.m ≠ lit.m) ∧
    (∃ t, step (before lit (wrC 0 0x10000000)) = .next t ∧ t.m ≠ lit.m) ∧
    (∃ t, step (before lit (wrC 0 0x20000FFF)) = .next t ∧ t.m ≠ lit.m) ∧
    (∃ t, step (before lit (wrC 0 0x30000C00)) = .next t ∧ t.m ≠ lit.m) :=
  ⟨holds_next (by decide +kernel), holds_next (by decide +kernel), holds_next (by decide +kernel),
    holds_next (by decide +kernel)⟩

/-- At two corners, and with no plane lit. -/
theorem witness_OnePixelGivesOneFrameBit :
    (∀ r c : BitVec 5, flag (Matrix.off.setPixel 0 0 0b11).a r c = (true && decide (r = 0 ∧ c = 0)) ∧
      flag (Matrix.off.setPixel 0 0 0b11).b r c = (true && decide (r = 0 ∧ c = 0))) ∧
    (∀ r c : BitVec 5, flag (Matrix.off.setPixel 31 31 0b10).a r c = (false && decide (r = 31 ∧ c = 31)) ∧
      flag (Matrix.off.setPixel 31 31 0b10).b r c = (true && decide (r = 31 ∧ c = 31))) ∧
    (∀ r c : BitVec 5, flag Matrix.off.a r c = (false && decide (r = 0 ∧ c = 0)) ∧
      flag Matrix.off.b r c = (false && decide (r = 0 ∧ c = 0))) := by decide +kernel

/-- Plane A of (0, 0) on line 12 in event 77, and plane B in event 269 (V-AM: bit 7). -/
theorem witness_EveryPixelGoesOutAtItsPayloadTick :
    (1 < 3) ∧ (frameProgram .default (toPhys lit.m))[55 + 3 * 7 + 1]? = some ⟨true, 0x1000⟩ ∧
    (frameProgram .default (toPhys lit.m))[55 + 3 * (64 + 7) + 1]? = some ⟨true, 0x1000⟩ := by decide +kernel

/-- The lanes at the ends of both planes. -/
theorem witness_PayloadLaneCarriesItsBit :
    let f : Frame := { p0 := Vector.replicate 16 0x8000000000000001#64, p1 := Vector.replicate 16 0x1#64 }
    (0 < 128 ∧ payloadVector f 0 = 0xFFFF) ∧ (63 < 128 ∧ payloadVector f 63 = 0xFFFF) ∧
    (64 < 128 ∧ payloadVector f 64 = 0xFFFF) ∧ (127 < 128 ∧ payloadVector f 127 = 0) := by decide

/-- The last bit-tick of each byte and of the payload stands just before what follows it. -/
theorem witness_FrameProgramFollowsItsTable :
    (7 < 8 ∧ 4 + 3 * 7 = 25) ∧ (7 < 8 ∧ 33 + 3 * 7 = 54) ∧ (127 < 128 ∧ 57 + 3 * 127 = 438) := by decide
theorem witness_ControlProgramFollowsItsTable : 7 < 8 ∧ 4 + 3 * 7 = 25 := by decide

theorem witness_WrframeStartsTheFrameProgram : lit.ser.busy = false := by decide
theorem witness_DispctrlStartsTheControlProgram : s0.ser.busy = false := by decide
theorem witness_SerialCommandWhileBusyIsDropped :
    busy.ser.busy = true ∧ (Instr.wrframe = .wrframe ∨ ∃ on bri, Instr.wrframe = .dispctrl on bri) ∧
    (Instr.dispctrl true 7 = .wrframe ∨ ∃ on bri, Instr.dispctrl true 7 = .dispctrl on bri) :=
  ⟨by decide, .inl rfl, .inr ⟨true, 7, rfl⟩⟩

/-- WCNT = 2, the last event, the first and the last but one. -/
theorem witness_SerializerAdvancesInEveryBusyCycle :
    (∃ t, step { busy with ser := { busy.ser with wcnt := 2 } } = .next t ∧ busy.ser.busy = true ∧
      busy.now.rst = false ∧ t.ser.wcnt = 1 ∧ t.ser.eidx = 0) ∧
    (∃ t, step { busy with ser := { busy.ser with eidx := 441 } } = .next t ∧ t.ser.busy = false) ∧
    (∃ t, step busy = .next t ∧ t.ser.eidx = 1 ∧ t.ser.busy = true ∧ t.ser.lines = ⟨false, 0⟩) ∧
    (∃ t, step { busy with ser := { busy.ser with eidx := 440 } } = .next t ∧ t.ser.eidx = 441 ∧
      t.ser.lines = ⟨true, 0xFFFF⟩) :=
  ⟨holds_next (by decide +kernel), holds_next (by decide +kernel), holds_next (by decide +kernel),
    holds_next (by decide +kernel)⟩

/-- No reset in any of 443 listed idle cycles. -/
def calm : State := { s0 with env := { s0.env with inputs := List.replicate 443 benchIdle } }

theorem calm_inputs (i : Instr) (u : State) (h : exec i calm = .next u) (j : Nat) (hj : j < 442) :
    (u.inputAt j).rst = false := by
  rw [exec_eq_runCycle] at h
  injection h with h
  subst h
  rw [inputAt_of_advance (s := calm) (runCycle_env _ _)]
  have hc : calm.env.inputs = List.replicate 443 benchIdle := rfl
  unfold State.inputAt
  simp only [hc, List.length_replicate, show j + 1 < 443 by omega, dif_pos, List.getElem_replicate]
  rfl

/-- Both commands, with D = 1: right after acceptance (k = 0), at the last busy cycle and at the first idle one. -/
theorem witness_TransactionTakesItsEventsTimesDelay :
    calm.ser.busy = false ∧ calm.delay ≠ 0#16 ∧
    (∃ u, exec .wrframe calm = .next u ∧ (∀ j, j < 442 → (u.inputAt j).rst = false) ∧
      442 ≤ (frameProgram calm.cfg (toPhys calm.m)).length * calm.delay.toNat) ∧
    (∃ u, exec (.dispctrl true 7) calm = .next u ∧ (∀ j, j < 29 → (u.inputAt j).rst = false) ∧
      29 ≤ (ctrlProgram (calm.cfg.dispCtrl true 7)).length * calm.delay.toNat) := by
  have hd : calm.delay.toNat = 1 := rfl
  refine ⟨rfl, by decide, ⟨_, exec_eq_runCycle _ _, fun j hj => calm_inputs _ _ (exec_eq_runCycle _ _) j hj, ?_⟩,
    ⟨_, exec_eq_runCycle _ _, fun j hj => calm_inputs _ _ (exec_eq_runCycle _ _) j (by omega), ?_⟩⟩
  · simp [frameProgram, startSeq, stopSeq, hd]
  · simp [ctrlProgram, startSeq, stopSeq, hd]

theorem witness_SnapshotChangesOnlyByWrframe :
    (∃ t, step (before lit (wrC 0 0x40000000)) = .next t ∧ t.ser.snap ≠ lit.ser.snap) ∧
    (∃ t, step (before { s0 with ser := { s0.ser with snap := { Frame.zero with p1 := Vector.replicate 16 1#64 } } }
        rstC) = .next t ∧ t.ser.snap = .zero) :=
  ⟨holds_next (by decide +kernel), holds_next (by decide +kernel)⟩

theorem witness_DecoderStepFollowsTheTable :
    (Config.default.qEntry .cw3 3).tag = .cw ∧ (Config.default.qEntry .ccw3 3).tag = .ccw ∧
    (Config.default.qEntry .start 3).tag = .none := by decide
/-- The table itself; and an entry of each kind, read off R231's table: hold, skip, forward, its last step, back. -/
theorem witness_DefaultTableIsBuiltAsStated :
    Config.default.qTable = defaultQTable ∧
    Config.default.qEntry .ccw3 0b01 = ⟨.ccw3, .none⟩ ∧ Config.default.qEntry .ccw3 0b10 = ⟨.illegal, .none⟩ ∧
    Config.default.qEntry .ccw2 0b01 = ⟨.ccw3, .none⟩ ∧ Config.default.qEntry .ccw3 0b11 = ⟨.start, .ccw⟩ ∧
    Config.default.qEntry .cw3 0b00 = ⟨.cw2, .none⟩ := by decide
theorem witness_OneTickPerDetent : s0.cfg.qTable = defaultQTable := rfl

/-- By `poll_tick`, by POLL, and by reset. -/
theorem witness_DecoderStateChangesOnlyOnAnEdge :
    (∃ t, step (before turning { benchIdle with pollTick := true }) = .next t ∧ t.qst ≠ turning.qst) ∧
    (∃ t, step (before closing (wrC 0 0x60000000)) = .next t ∧ t.qst ≠ closing.qst) ∧
    (∃ t, step (before closing rstC) = .next t ∧ t.qst ≠ closing.qst) :=
  ⟨holds_next (by decide +kernel), holds_next (by decide +kernel), holds_next (by decide +kernel)⟩

theorem witness_SynchronizersShiftEveryCycle :
    ∃ t, step (before s0 { benchIdle with encA := false }) = .next t ∧
      (before s0 { benchIdle with encA := false }).now.rst = false ∧ t.pins.a.sync1 = false ∧ t.pins.a.sync2 = true :=
  holds_next (by decide +kernel)

/-- The three clauses at N = 1 and N = 64. -/
theorem witness_FilterConfirmsOnlyAUniformWindow :
    let hi : Pin := { s0.pins.a with n := 64 }
    let lo : Pin := { s0.pins.a with n := 64, hist := 0, lvl := false }
    let one : Pin := { s0.pins.a with n := 1 }
    (1 ≤ hi.n.toNat ∧ hi.n.toNat ≤ 64 ∧ 1 ≤ one.n.toNat) ∧
    ((∀ j, j < 64 → (if j = 0 then true else (BitVec.allOnes 64).getLsbD (j - 1)) = true) ∧
      (debounce { hi with lvl := false } true).edge = .rise) ∧
    ((∀ j, j < 64 → (if j = 0 then false else lo.hist.getLsbD (j - 1)) = false) ∧
      (debounce { lo with lvl := true } false).edge = .fall) ∧
    ((∀ j, j < 1 → (if j = 0 then false else one.hist.getLsbD (j - 1)) = false) ∧ one.lvl = true) ∧
    (∃ j, j < hi.n.toNat ∧ (if j = 0 then false else hi.hist.getLsbD (j - 1)) = hi.lvl) := by
  refine ⟨by decide, by decide, by decide, by decide, 1, by decide, by decide⟩

/-- N = 1 after one step, N = 64 after exactly 64. -/
theorem witness_LevelSettlesWithinTheDepth :
    (1 ≤ turning.pins.a.n.toNat ∧ turning.pins.a.n.toNat ≤ 64 ∧ turning.pins.a.n.toNat ≤ 1) ∧
    (1 ≤ s0.pins.a.n.toNat ∧ s0.pins.a.n.toNat ≤ 64 ∧ s0.pins.a.n.toNat ≤ 64) := by decide

/-- Two states that agree on pin A and differ in pin B, the matrix and the serializer. -/
theorem witness_FiltersAreIndependent :
    let s := before turning { benchIdle with pollTick := true }
    let s' := before { busy with m := lit.m, pins := { turning.pins with b := { turning.pins.b with lvl := false } } }
      { benchIdle with pollTick := true }
    (∃ t, step s = .next t) ∧ (∃ t, step s' = .next t) ∧ s.now = s'.now ∧ s.cfg = s'.cfg ∧
    s.pins.get .a = s'.pins.get .a ∧ s.pins.get .b ≠ s'.pins.get .b :=
  ⟨step_next _, step_next _, rfl, rfl, rfl, by decide⟩

/-- No edge; an edge of A alone; an edge of B alone; both. -/
theorem witness_PollTickFollowsItsProcedure :
    ((debounce s0.pins.a s0.pins.a.sync2).edge = .none ∧ (debounce s0.pins.b s0.pins.b.sync2).edge = .none) ∧
    ((debounce turning.pins.a turning.pins.a.sync2).edge ≠ .none ∧
      (poll turning.cfg turning.pins turning.qst).qst = .cw1) ∧
    ((debounce closing.pins.b closing.pins.b.sync2).edge ≠ .none ∧
      (poll closing.cfg closing.pins closing.qst).r = -1) := by decide

theorem witness_EvclrClearsWhatItNames : flagged.now.pollTick = false ∧ flagged.delta ≠ 0 ∧ flagged.press = true := by
  decide

/-- By EVCLR, by a read of EVENTS_RC and by reset, of each event. -/
theorem witness_NoEventClearsItself :
    (flagged.delta ≠ 0#2 ∧ flagged.press = true) ∧
    (∃ t, step (before flagged (wrC 0 0x70000001)) = .next t ∧ t.delta = 0#2 ∧ t.press = true) ∧
    (∃ t, step (before flagged (wrC 0 0x70000002)) = .next t ∧ t.delta = 0b11#2 ∧ t.press = false) ∧
    (∃ t, step (before flagged (rdC 3)) = .next t ∧ t.delta = 0#2 ∧ t.press = false) ∧
    (∃ t, step (before flagged rstC) = .next t ∧ t.delta = 0#2 ∧ t.press = false) :=
  ⟨by decide, holds_next (by decide +kernel), holds_next (by decide +kernel), holds_next (by decide +kernel),
    holds_next (by decide +kernel)⟩

/-- By `poll_tick` and by POLL, of each event. -/
theorem witness_EventsAreSetOnlyByPollTicks :
    (∃ t, step (before pressing { benchIdle with pollTick := true }) = .next t ∧ pressing.press = false ∧
      t.press = true) ∧
    (∃ t, step (before pressing (wrC 0 0x60000000)) = .next t ∧ t.press = true) ∧
    (∃ t, step (before closing { benchIdle with pollTick := true }) = .next t ∧ t.delta ≠ closing.delta ∧
      t.delta ≠ 0#2) ∧
    (∃ t, step (before closing (wrC 0 0x60000000)) = .next t ∧ t.delta ≠ closing.delta ∧ t.delta ≠ 0#2) :=
  ⟨holds_next (by decide +kernel), holds_next (by decide +kernel), holds_next (by decide +kernel),
    holds_next (by decide +kernel)⟩

/-- Two states that differ in the matrix, the serializer, DELAY and the sticky bits. -/
theorem witness_InputSideIgnoresDisplaySide :
    let s := before turning (wrC 0 0x40000000)
    let s' : State := { s with m := lit.m, ser := busy.ser, delay := 9, ovr := true, cmderr := true }
    (∃ t, step s = .next t) ∧ (∃ t, step s' = .next t) ∧ s.cfg = s'.cfg ∧ s.env.inputs = s'.env.inputs ∧
    s.env.drawn = s'.env.drawn ∧ s.pins = s'.pins ∧ s.qst = s'.qst ∧ s.delta = s'.delta ∧ s.press = s'.press ∧
    s.ser ≠ s'.ser :=
  ⟨step_next _, step_next _, rfl, rfl, rfl, rfl, rfl, rfl, rfl, by decide⟩

theorem witness_ReadsOfCmdAndReservedReturnZero :
    (Instr.rdCmd = .rdCmd ∨ ∃ x, Instr.rdCmd = .rdRsvd x) ∧
    (Instr.rdRsvd true = .rdCmd ∨ ∃ x, Instr.rdRsvd true = .rdRsvd x) := ⟨.inl rfl, .inr ⟨true, rfl⟩⟩

/-- R293, R294, R297: the lowest and the highest of the bits that read zero. -/
theorem witness_ReadsZeroAbove :
    (4 ≤ 4 ∧ flagged.statusWord.getLsbD 4 = false) ∧ (11 ≤ 11 ∧ flagged.eventsWord.getLsbD 11 = false) ∧
    (23 ≤ 23 ∧ flagged.configWord.getLsbD 23 = false) ∧ (16 ≤ 31 ∧ flagged.delayWord.getLsbD 31 = false) := by decide

theorem witness_RdEventsRcReadsAndClears : flagged.now.pollTick = false ∧ flagged.delta ≠ 0 := by decide

/-- At CMD, at EVENTS_RC and at DELAY. -/
theorem witness_ReadAndWriteInOneCycle :
    let at_ := fun a : BitVec 3 => before flagged { wrC a 5 with busRe := true }
    (∀ a, (at_ a).env.inputs = { wrC a 5 with busRe := true } :: [] ∧ (at_ a).now.rst = false ∧
      (at_ a).now.busWe = true ∧ (at_ a).now.busRe = true) ∧
    (∃ t, step (at_ 0) = .next t ∧ t.env.rdata = 0 ∧ t.cmderr = true) ∧
    (∃ t, step (at_ 3) = .next t ∧ t.env.rdata = 0x00000707 ∧ t.delta = 0 ∧ t.press = false) ∧
    (∃ t, step (at_ 5) = .next t ∧ t.env.rdata = 1 ∧ t.delay = 5 ∧ t.delta = 0b11) :=
  ⟨by decide, holds_next (by decide +kernel), holds_next (by decide +kernel), holds_next (by decide +kernel)⟩

theorem witness_RegistersChangeOnlyByTheirWrite :
    (∃ t, step (before s0 (wrC 4 0x00014040)) = .next t ∧ (t.pins.get .sw).n ≠ (s0.pins.get .sw).n) ∧
    (∃ t, step (before s0 (wrC 5 2)) = .next t ∧ t.delay ≠ s0.delay) ∧
    (∃ t, step (before turning rstC) = .next t ∧ (t.pins.get .a).n ≠ (turning.pins.get .a).n) ∧
    (∃ t, step (before { s0 with delay := 7 } rstC) = .next t ∧ t.delay ≠ 7) :=
  ⟨holds_next (by decide +kernel), holds_next (by decide +kernel), holds_next (by decide +kernel),
    holds_next (by decide +kernel)⟩

/-- Each bit set by its cause, cleared by its write and by reset. -/
theorem witness_StickyBitsHaveOneCauseAndOneClear :
    (∃ t, step (before busy (wrC 0 0x80000000)) = .next t ∧ busy.cmderr = false ∧ t.cmderr = true) ∧
    (∃ t, step (before busy (wrC 0 0x40000000)) = .next t ∧ busy.ovr = false ∧ t.ovr = true) ∧
    (∃ t, step (before busy (wrC 0 0x50000003)) = .next t ∧ t.ovr = true) ∧
    (∃ t, step (before flagged (wrC 1 0x4)) = .next t ∧ flagged.cmderr = true ∧ t.cmderr = false ∧ t.ovr = true) ∧
    (∃ t, step (before flagged (wrC 1 0x2)) = .next t ∧ flagged.ovr = true ∧ t.ovr = false ∧ t.cmderr = true) ∧
    (∃ t, step (before flagged rstC) = .next t ∧ t.ovr = false ∧ t.cmderr = false) :=
  ⟨holds_next (by decide +kernel), holds_next (by decide +kernel), holds_next (by decide +kernel),
    holds_next (by decide +kernel), holds_next (by decide +kernel), holds_next (by decide +kernel)⟩

end Sys2Proof.Tests
end

/-! SUPPORT. What a clock edge does, said once. `cycleOp` is what the bus signals of the current cycle ask of it, the
inductive `HostAccess` lists the seven forms that can take, and every rule about who writes an element is read off
that list. -/

namespace Sys2Proof.Machine

section Cycle

/-! ## What the bus signals present -/

theorem fetch_read {c : CycleIn} (hwe : c.busWe = false) (hre : c.busRe = true) :
    fetch c = some (decodeOperation (0#1 ++ c.busAddr) c.busWdata) := by
  simp only [fetch, hwe, hre, Bool.false_eq_true, if_false, if_true]

theorem fetch_command {c : CycleIn} (hwe : c.busWe = true) (ha : c.busAddr = 0#3) :
    fetch c = some (decodeCommand c.busWdata).toInstr := by
  simp only [fetch, hwe, ha, if_true]

theorem fetch_write {c : CycleIn} (hwe : c.busWe = true) (ha : c.busAddr ≠ 0#3) :
    fetch c = some (decodeOperation (1#1 ++ c.busAddr) c.busWdata) := by
  simp only [fetch, hwe, ha, if_true, if_false]

theorem fetch_none {c : CycleIn} (hwe : c.busWe = false) (hre : c.busRe = false) : fetch c = none := by
  simp only [fetch, hwe, hre, Bool.false_eq_true, if_false]

/-! ## The operation a cycle's bus signals ask for -/

/-- What the host asks of the current cycle, given that it is not in reset. -/
def cycleOp (s : State) : HostOp :=
  match fetch s.now with
  | some i => instrOp i s
  | none => { wr := s }

theorem cycleOp_of_fetch {s : State} {i : Instr} (h : fetch s.now = some i) : cycleOp s = instrOp i s := by
  simp [cycleOp, h]

theorem cycleOp_of_fetch_none {s : State} (h : fetch s.now = none) : cycleOp s = { wr := s } := by
  simp [cycleOp, h]

theorem step_of_rst {s : State} (h : s.now.rst = true) :
    step s = .next (.resetOf s.cfg (s.env.advance (if s.now.busRe then readReg s s.now.busAddr else 0#32))) := by
  simp only [step, h, if_true, resetCycle]

theorem step_of_not_rst {s : State} (h : s.now.rst = false) : step s = .next (runCycle (cycleOp s) s) := by
  unfold step cycleOp
  rw [h]
  cases fetch s.now with
  | some i => exact exec_eq_runCycle i s
  | none => rfl

/-- A step is a reset or the cycle that its bus signals ask for. -/
theorem step_reset_or_cycle {s t : State} (h : step s = .next t) :
    (s.now.rst = true ∧
      t = .resetOf s.cfg (s.env.advance (if s.now.busRe then readReg s s.now.busAddr else 0#32))) ∨
    (s.now.rst = false ∧ t = runCycle (cycleOp s) s) := by
  obtain ⟨hr, ht⟩ | ⟨hr, i, hf, ht⟩ | ⟨hr, hf, ht⟩ := step_cases h
  · exact .inl ⟨hr, ht⟩
  · exact .inr ⟨hr, by rw [cycleOp_of_fetch hf, ht]⟩
  · exact .inr ⟨hr, by rw [cycleOp_of_fetch_none hf, ht]⟩

/-- The operations a host access can ask for in the current cycle of `s`, each with the bus signals that ask for it
(R119, R299 to R305). -/
inductive HostAccess (s : State) : HostOp → Prop where
  | none (hwe : s.now.busWe = false) (hre : s.now.busRe = false) : HostAccess s { wr := s }
  | read (hwe : s.now.busWe = false) (hre : s.now.busRe = true) : HostAccess s (readOp s.now.busAddr s)
  | command (c : Command) (hwe : s.now.busWe = true) (ha : s.now.busAddr = 0#3)
      (hc : decodeCommand s.now.busWdata = c) : HostAccess s ((commandOp c s).withRead 0#3 s)
  | status (hwe : s.now.busWe = true) (ha : s.now.busAddr = 1#3) :
      HostAccess s (HostOp.withRead
        { wr := acknowledge .cmdErr (s.now.busWdata.getLsbD 2)
            (acknowledge .overrun (s.now.busWdata.getLsbD 1) s) } 1#3 s)
  | config (hwe : s.now.busWe = true) (ha : s.now.busAddr = 4#3) :
      HostAccess s (HostOp.withRead { wr := { s with pins := s.pins.withConfig s.now.busWdata } } 4#3 s)
  | delay (hwe : s.now.busWe = true) (ha : s.now.busAddr = 5#3) :
      HostAccess s (HostOp.withRead
        { wr := { s with delay := warlDelay s.delay (s.now.busWdata.extractLsb' 0 16) } } 5#3 s)
  | ignored (a : BitVec 3) (hwe : s.now.busWe = true) (ha : s.now.busAddr = a) (hmem : a ∈ [2#3, 3#3, 6#3, 7#3]) :
      HostAccess s (HostOp.withRead { wr := s } a s)

theorem wordAddr_cases (a : BitVec 3) :
    a = 0#3 ∨ a = 1#3 ∨ a = 2#3 ∨ a = 3#3 ∨ a = 4#3 ∨ a = 5#3 ∨ a = 6#3 ∨ a = 7#3 := by
  revert a; decide

theorem instrOp_toInstr (c : Command) (s : State) : instrOp c.toInstr s = (commandOp c s).withRead 0#3 s := by
  cases c <;> rfl

theorem instrOp_decodeOperation_read (a : BitVec 3) (w : Word) (s : State) :
    instrOp (decodeOperation (0#1 ++ a) w) s = readOp a s := by
  rcases wordAddr_cases a with rfl | rfl | rfl | rfl | rfl | rfl | rfl | rfl <;> rfl

/-- The bus signals of a cycle ask for one of the listed operations. -/
theorem cycleOp_access (s : State) : HostAccess s (cycleOp s) := by
  cases hwe : s.now.busWe with
  | false =>
    cases hre : s.now.busRe with
    | false =>
      rw [cycleOp_of_fetch_none (fetch_none hwe hre)]
      exact .none hwe hre
    | true =>
      rw [cycleOp_of_fetch (fetch_read hwe hre), instrOp_decodeOperation_read]
      exact .read hwe hre
  | true =>
    by_cases h0 : s.now.busAddr = 0#3
    · rw [cycleOp_of_fetch (fetch_command hwe h0), instrOp_toInstr]
      exact .command _ hwe h0 rfl
    · rw [cycleOp_of_fetch (fetch_write hwe h0)]
      rcases wordAddr_cases s.now.busAddr with h | h | h | h | h | h | h | h
      · exact absurd h h0
      · rw [h]; exact .status hwe h
      · rw [h]; exact .ignored _ hwe h (by decide)
      · rw [h]; exact .ignored _ hwe h (by decide)
      · rw [h]; exact .config hwe h
      · rw [h]; exact .delay hwe h
      · rw [h]; exact .ignored _ hwe h (by decide)
      · rw [h]; exact .ignored _ hwe h (by decide)

end Cycle

section CommandWrites

/-! ## What a command writes -/

theorem wrframeWrites_busy {s : State} (h : s.ser.busy = true) : wrframeWrites s = raise .overrun s := by
  simp [wrframeWrites, h]

theorem wrframeWrites_idle {s : State} (h : s.ser.busy = false) :
    wrframeWrites s = { s with ser := { s.ser with snap := toPhys s.m }.start s.cfg s.delay .frame } := by
  simp [wrframeWrites, h]

theorem dispctrlWrites_busy {s : State} (on : Bool) (bri : BitVec 3) (h : s.ser.busy = true) :
    dispctrlWrites on bri s = raise .overrun s := by
  simp [dispctrlWrites, h]

theorem dispctrlWrites_idle {s : State} (on : Bool) (bri : BitVec 3) (h : s.ser.busy = false) :
    dispctrlWrites on bri s =
      { s with ser := { s.ser with cb := s.cfg.dispCtrl on bri }.start s.cfg s.delay .ctrl } := by
  simp [dispctrlWrites, h]

/-- A serial command writes only the serializer and OVR. -/
theorem wrframeWrites_frame (s : State) :
    (wrframeWrites s).m = s.m ∧ (wrframeWrites s).pins = s.pins ∧ (wrframeWrites s).delay = s.delay := by
  cases h : s.ser.busy with
  | true => rw [wrframeWrites_busy h]; exact ⟨rfl, rfl, rfl⟩
  | false => rw [wrframeWrites_idle h]; exact ⟨rfl, rfl, rfl⟩

theorem dispctrlWrites_frame (on : Bool) (bri : BitVec 3) (s : State) :
    (dispctrlWrites on bri s).m = s.m ∧ (dispctrlWrites on bri s).pins = s.pins ∧
      (dispctrlWrites on bri s).delay = s.delay := by
  cases h : s.ser.busy with
  | true => rw [dispctrlWrites_busy on bri h]; exact ⟨rfl, rfl, rfl⟩
  | false => rw [dispctrlWrites_idle on bri h]; exact ⟨rfl, rfl, rfl⟩

@[simp] theorem commandOp_pins (c : Command) (s : State) : (commandOp c s).wr.pins = s.pins := by
  cases c with
  | wrframe => obtain ⟨-, hp, -⟩ := wrframeWrites_frame s; exact hp
  | dispctrl on bri => obtain ⟨-, hp, -⟩ := dispctrlWrites_frame on bri s; exact hp
  | _ => rfl

@[simp] theorem commandOp_delay (c : Command) (s : State) : (commandOp c s).wr.delay = s.delay := by
  cases c with
  | wrframe => obtain ⟨-, -, hd⟩ := wrframeWrites_frame s; exact hd
  | dispctrl on bri => obtain ⟨-, -, hd⟩ := dispctrlWrites_frame on bri s; exact hd
  | _ => rfl

/-- A command writes the matrix only if it is CLEAR, SETPIX or CLRPIX (R170). -/
theorem commandOp_m (c : Command) (s : State) :
    (commandOp c s).wr.m = s.m ∨ c = .clear ∨ ∃ row col pm, c = .setpix row col pm ∨ c = .clrpix row col pm := by
  cases c with
  | clear => exact .inr (.inl rfl)
  | setpix row col pm => exact .inr (.inr ⟨row, col, pm, .inl rfl⟩)
  | clrpix row col pm => exact .inr (.inr ⟨row, col, pm, .inr rfl⟩)
  | wrframe => exact .inl (wrframeWrites_frame s).1
  | dispctrl on bri => exact .inl (dispctrlWrites_frame on bri s).1
  | _ => exact .inl rfl

/-- A command writes the serializer only if it is an accepted WRFRAME or DISPCTRL, which starts its program (R199 to
R201, R204). -/
theorem commandOp_ser (c : Command) (s : State) :
    (commandOp c s).wr.ser = s.ser ∨
    (s.ser.busy = false ∧ c = .wrframe ∧
      (commandOp c s).wr.ser = { s.ser with snap := toPhys s.m }.start s.cfg s.delay .frame) ∨
    (s.ser.busy = false ∧ ∃ on bri, c = .dispctrl on bri ∧
      (commandOp c s).wr.ser = { s.ser with cb := s.cfg.dispCtrl on bri }.start s.cfg s.delay .ctrl) := by
  cases hb : s.ser.busy with
  | true =>
    left
    cases c with
    | wrframe => simp [commandOp, wrframeWrites_busy hb]
    | dispctrl on bri => simp [commandOp, dispctrlWrites_busy on bri hb]
    | _ => rfl
  | false =>
    cases c with
    | wrframe => exact .inr (.inl ⟨rfl, rfl, by simp only [commandOp, wrframeWrites_idle hb]⟩)
    | dispctrl on bri =>
      exact .inr (.inr ⟨rfl, on, bri, rfl, by simp only [commandOp, dispctrlWrites_idle on bri hb]⟩)
    | _ => exact .inl rfl

theorem commandOp_tick (c : Command) (s : State) : (commandOp c s).tick = decide (c = .poll) := by
  cases c <;> simp [commandOp]

/-- What a command asks of the merge and the poll part depends on the command alone. -/
theorem commandOp_requests_agree (c : Command) (s s' : State) :
    (commandOp c s).tick = (commandOp c s').tick ∧ (commandOp c s).clrD = (commandOp c s').clrD ∧
      (commandOp c s).clrP = (commandOp c s').clrP := by
  cases c <;> exact ⟨rfl, rfl, rfl⟩

end CommandWrites

section Writers

/-! ## Who writes an element -/

variable {s : State} {op : HostOp}

theorem HostAccess.m_cases (h : HostAccess s op) :
    op.wr.m = s.m ∨
    (s.now.busWe = true ∧ s.now.busAddr = 0#3 ∧
      (decodeCommand s.now.busWdata = .clear ∨
        ∃ row col pm, decodeCommand s.now.busWdata = .setpix row col pm ∨
          decodeCommand s.now.busWdata = .clrpix row col pm)) := by
  cases h with
  | command c hwe ha hc =>
    subst hc
    rw [HostOp.withRead_wr]
    exact (commandOp_m _ s).imp_right fun hw => ⟨hwe, ha, hw⟩
  | _ => left; simp

/-- The host writes the serializer only where BUSY is 0, by a WRFRAME or a DISPCTRL (R201, R204). -/
theorem HostAccess.ser_cases (h : HostAccess s op) :
    op.wr.ser = s.ser ∨
    (s.ser.busy = false ∧ s.now.busWe = true ∧ s.now.busAddr = 0#3 ∧ decodeCommand s.now.busWdata = .wrframe ∧
      op.wr.ser = { s.ser with snap := toPhys s.m }.start s.cfg s.delay .frame) ∨
    (s.ser.busy = false ∧ ∃ on bri,
      op.wr.ser = { s.ser with cb := s.cfg.dispCtrl on bri }.start s.cfg s.delay .ctrl) := by
  cases h with
  | command c hwe ha hc =>
    subst hc
    rw [HostOp.withRead_wr]
    obtain hk | ⟨hb, hc, hs⟩ | ⟨hb, on, bri, -, hs⟩ := commandOp_ser (decodeCommand s.now.busWdata) s
    · exact .inl hk
    · exact .inr (.inl ⟨hb, hwe, ha, hc, hs⟩)
    · exact .inr (.inr ⟨hb, on, bri, hs⟩)
  | _ => left; simp

/-- The host makes a poll tick only by a POLL written to CMD (R270). -/
theorem HostAccess.poll_of_tick (h : HostAccess s op) (ht : op.tick = true) :
    s.now.busWe = true ∧ s.now.busAddr = 0#3 ∧ decodeCommand s.now.busWdata = .poll := by
  cases h with
  | command c hwe ha hc =>
    rw [HostOp.withRead_tick, commandOp_tick, decide_eq_true_eq] at ht
    exact ⟨hwe, ha, hc.trans ht⟩
  | _ => simp at ht

theorem HostAccess.pins_cases (h : HostAccess s op) :
    op.wr.pins = s.pins ∨
    (s.now.busWe = true ∧ s.now.busAddr = 4#3 ∧ op.wr.pins = s.pins.withConfig s.now.busWdata) := by
  cases h with
  | config hwe ha => exact .inr ⟨hwe, ha, by rw [HostOp.withRead_wr]⟩
  | _ => left; simp

theorem HostAccess.delay_cases (h : HostAccess s op) :
    op.wr.delay = s.delay ∨
    (s.now.busWe = true ∧ s.now.busAddr = 5#3 ∧
      op.wr.delay = warlDelay s.delay (s.now.busWdata.extractLsb' 0 16)) := by
  cases h with
  | delay hwe ha => exact .inr ⟨hwe, ha, by rw [HostOp.withRead_wr]⟩
  | _ => left; simp

/-- A cycle has a poll tick only from `poll_tick` or from a POLL written to CMD (R270). -/
theorem pollTick_or_poll_of_tick (h : (s.now.pollTick || (cycleOp s).tick) = true) :
    s.now.pollTick = true ∨
      (s.now.busWe = true ∧ s.now.busAddr = 0#3 ∧ decodeCommand s.now.busWdata = .poll) :=
  (Bool.or_eq_true _ _ ▸ h).imp_right (cycleOp_access s).poll_of_tick

end Writers

section PollPart

/-! ## What needs an edge in a poll tick -/

/-- Without an edge on A or B in a poll tick, the decoder is not called (R273). -/
theorem pollCycle_decoder_idle_or_edge (tick : Bool) (cfg : Config) (ps : Pins) (q : QState) :
    ((pollCycle tick cfg ps q).qst = q ∧ (pollCycle tick cfg ps q).r = 0) ∨
    (tick = true ∧ ((debounce ps.a ps.a.sync2).edge ≠ .none ∨ (debounce ps.b ps.b.sync2).edge ≠ .none)) := by
  cases tick with
  | false => exact .inl ⟨rfl, rfl⟩
  | true =>
    by_cases he : (debounce ps.a ps.a.sync2).edge ≠ .none ∨ (debounce ps.b ps.b.sync2).edge ≠ .none
    · exact .inr ⟨rfl, he⟩
    · left
      simp only [pollCycle_true, poll, if_neg he, and_self]

/-- A press request is a fall of SW in a poll tick (R274). -/
theorem pollCycle_pressSet {tick : Bool} {cfg : Config} {ps : Pins} {q : QState}
    (h : (pollCycle tick cfg ps q).pressSet = true) :
    tick = true ∧ (debounce ps.sw ps.sw.sync2).edge = .fall := by
  cases tick with
  | false => simp at h
  | true => exact ⟨rfl, of_decide_eq_true h⟩

/-- DELTA takes a new non-zero value only from a non-zero tick (R275). -/
theorem tick_ne_zero_of_mergeDelta {r : Int} {clrD : Bool} {d : BitVec 2}
    (hne : mergeDelta r clrD d ≠ d) (h0 : mergeDelta r clrD d ≠ 0#2) : r ≠ 0 := by
  rintro rfl
  cases clrD with
  | true => exact h0 rfl
  | false => exact hne rfl

/-- PRESS is set only by a press request (R275). -/
theorem pressSet_of_mergePress {pressSet clrP : Bool} (h : mergePress pressSet clrP false = true) :
    pressSet = true := by
  cases pressSet with
  | true => rfl
  | false => cases clrP <;> exact absurd h (by decide)

end PollPart

section Whole

/-! ## The rules about who writes what -/

/-- Settles O16: the host's access is the matrix's only writer in a cycle, and only three commands write it. -/
theorem matrixHasOnlyItsFourWriters : Obligations.MatrixHasOnlyItsFourWriters := by
  intro s t h hne
  obtain ⟨hr, -⟩ | ⟨-, rfl⟩ := step_reset_or_cycle h
  · exact .inl hr
  · exact .inr ((cycleOp_access s).m_cases.resolve_left hne)

/-- Settles O31: an advance keeps SNAP, and of the host's writes of the serializer only WRFRAME's has a new one. -/
theorem snapshotChangesOnlyByWrframe : Obligations.SnapshotChangesOnlyByWrframe := by
  intro s t h hne
  obtain ⟨hr, -⟩ | ⟨-, rfl⟩ := step_reset_or_cycle h
  · exact .inl hr
  right
  cases hb : s.ser.busy with
  | true => exact absurd (by rw [runCycle_ser_busy hb, serAdvance_snap]) hne
  | false =>
    rw [runCycle_ser_idle hb] at hne ⊢
    obtain hk | ⟨-, hwe, ha, hc, hs⟩ | ⟨-, on, bri, hs⟩ := (cycleOp_access s).ser_cases
    · exact absurd (by rw [hk]) hne
    · exact ⟨hwe, ha, hc, rfl, by rw [hs, Serializer.start_snap]⟩
    · exact absurd (by rw [hs, Serializer.start_snap]) hne

/-- Settles O35: QST is the poll part's, which calls the decoder only on an edge. -/
theorem decoderStateChangesOnlyOnAnEdge : Obligations.DecoderStateChangesOnlyOnAnEdge := by
  intro s t h hne
  obtain ⟨hr, -⟩ | ⟨-, rfl⟩ := step_reset_or_cycle h
  · exact .inl hr
  · obtain ⟨hq, -⟩ | ⟨htick, hedge⟩ := pollCycle_decoder_idle_or_edge
      (s.now.pollTick || (cycleOp s).tick) s.cfg s.pins s.qst
    · exact absurd hq hne
    · exact .inr ⟨pollTick_or_poll_of_tick htick, hedge⟩

/-- Settles O36: the flops are among the parts that run in every cycle. -/
theorem synchronizersShiftEveryCycle : Obligations.SynchronizersShiftEveryCycle := by
  intro s t hr h p
  rw [step_of_not_rst hr] at h
  injection h with h
  subst h
  have hown := runCycle_ownParts (cycleOp s) s
  exact ⟨hown.sync1 p, hown.sync2 p⟩

/-- Settles O46: both events come from the merge, which sets them only from the poll part's requests. -/
theorem eventsAreSetOnlyByPollTicks : Obligations.EventsAreSetOnlyByPollTicks := by
  intro s t h
  obtain ⟨-, rfl⟩ | ⟨hr, rfl⟩ := step_reset_or_cycle h
  · exact ⟨fun _ hp => absurd hp Bool.false_ne_true, fun _ h0 => absurd rfl h0⟩
  constructor
  · intro hold hnew
    rw [runCycle_press, hold] at hnew
    obtain ⟨htick, hfall⟩ := pollCycle_pressSet (pressSet_of_mergePress hnew)
    exact ⟨hr, hfall, pollTick_or_poll_of_tick htick⟩
  · intro hne h0
    rw [runCycle_delta] at hne h0
    obtain ⟨-, hzero⟩ | ⟨htick, hedge⟩ := pollCycle_decoder_idle_or_edge
      (s.now.pollTick || (cycleOp s).tick) s.cfg s.pins s.qst
    · exact absurd hzero (tick_ne_zero_of_mergeDelta hne h0)
    · exact ⟨hr, hedge, pollTick_or_poll_of_tick htick⟩

/-- Settles O58: the depths and DELAY are the host's, and each has one address. -/
theorem registersChangeOnlyByTheirWrite : Obligations.RegistersChangeOnlyByTheirWrite := by
  intro s t h
  obtain ⟨hr, -⟩ | ⟨-, rfl⟩ := step_reset_or_cycle h
  · exact ⟨fun _ => .inl hr, fun _ => .inl hr⟩
  constructor
  · rintro ⟨p, hp⟩
    rw [runCycle_pins_get, Pin.atEdge_n] at hp
    obtain hk | ⟨hwe, ha, -⟩ := (cycleOp_access s).pins_cases
    · exact absurd (by rw [hk]) hp
    · exact .inr ⟨hwe, ha⟩
  · intro hd
    obtain hk | ⟨hwe, ha, -⟩ := (cycleOp_access s).delay_cases
    · exact absurd hk hd
    · exact .inr ⟨hwe, ha⟩

end Whole

section Serializer

/-! ## The serializer's part of the invariant -/

/-- The clauses of `Inv` about the serializer (R33, R205, R208). -/
structure SerInv (cfg : Config) (z : Serializer) : Prop where
  idle : z.busy = false → z.lines = LineEvent.idle
  index : z.busy = true → z.eidx.toNat ≤ z.kind.last
  count : z.busy = true → 1 ≤ z.wcnt.toNat ∧ z.wcnt.toNat ≤ z.dl.toNat
  event : z.busy = true → z.event cfg z.kind z.eidx.toNat = some z.lines

theorem Inv.serInv {s : State} (h : Inv s) : SerInv s.cfg s.ser := ⟨h.idle, h.index, h.count, h.event⟩

@[simp] theorem length_frameProgram (cfg : Config) (snap : Frame) : (frameProgram cfg snap).length = 442 := by
  simp [frameProgram, startSeq, stopSeq]

@[simp] theorem length_ctrlProgram (cb : Byte) : (ctrlProgram cb).length = 29 := by
  simp [ctrlProgram, startSeq, stopSeq]

/-- A program that ends with STOP ends on the idle lines (R193, R205). -/
theorem getElem?_append_stopSeq_last {l : List LineEvent} {n : Nat} (h : n = l.length + 2) :
    (l ++ stopSeq)[n]? = some LineEvent.idle := by
  rw [h, List.getElem?_append_right (Nat.le_add_right _ _), Nat.add_sub_cancel_left]
  rfl

/-- Every index up to the last has an event (R197, R198). -/
theorem event_of_le_last (cfg : Config) (z : Serializer) (kind : Kind) {e : Nat} (h : e ≤ kind.last) :
    ∃ ev, z.event cfg kind e = some ev := by
  cases kind with
  | frame => exact ⟨_, List.getElem?_eq_getElem (by rw [length_frameProgram]; exact Nat.lt_succ_of_le h)⟩
  | ctrl => exact ⟨_, List.getElem?_eq_getElem (by rw [length_ctrlProgram]; exact Nat.lt_succ_of_le h)⟩

/-- The last event of either program leaves the lines idle. -/
theorem event_last (cfg : Config) (z : Serializer) (kind : Kind) :
    z.event cfg kind kind.last = some LineEvent.idle := by
  cases kind with
  | frame => exact getElem?_append_stopSeq_last (by simp [Kind.last, startSeq, stopSeq])
  | ctrl => exact getElem?_append_stopSeq_last (by simp [Kind.last, startSeq])

theorem Kind.last_lt (kind : Kind) : kind.last < 511 := by
  cases kind <;> decide

/-- The next index does not overflow before the program's end. -/
theorem toNat_eidx_succ {e : BitVec 9} {kind : Kind} (h : e.toNat < kind.last) : (e + 1#9).toNat = e.toNat + 1 := by
  have := kind.last_lt
  rw [BitVec.toNat_add, BitVec.toNat_ofNat]
  omega

/-- A busy advance counts down, ends on idle lines after the last event, or emits the next event (R202). -/
theorem SerInv.advance {cfg : Config} {z : Serializer} (h : SerInv cfg z) (hb : z.busy = true) :
    SerInv cfg (serAdvance cfg z) := by
  have hidx := h.index hb
  have hev := h.event hb
  obtain ⟨hlo, hhi⟩ := h.count hb
  obtain ⟨hw, heq⟩ | ⟨-, hlast, heq⟩ | ⟨-, hlast, heq⟩ := serAdvance_cases cfg z <;> rw [heq]
  · have hdec : (z.wcnt - 1#16).toNat = z.wcnt.toNat - 1 := by bv_omega
    exact
      { idle := fun hf => absurd (hb.symm.trans hf) (by decide)
        index := fun _ => hidx
        count := fun _ => by simp only [hdec]; omega
        event := fun _ => hev }
  · rw [hlast, event_last, Option.some.injEq] at hev
    exact
      { idle := fun _ => hev.symm
        index := fun hf => absurd hf Bool.false_ne_true
        count := fun hf => absurd hf Bool.false_ne_true
        event := fun hf => absurd hf Bool.false_ne_true }
  · have hlt : z.eidx.toNat < z.kind.last := Nat.lt_of_le_of_ne hidx hlast
    have hsucc := toNat_eidx_succ hlt
    obtain ⟨ev, hnext⟩ := event_of_le_last cfg z z.kind (Nat.succ_le_of_lt hlt)
    rw [hnext, Option.getD_some]
    exact
      { idle := fun hf => absurd (hb.symm.trans hf) (by decide)
        index := fun _ => by simp only [hsucc]; exact hlt
        count := fun _ => ⟨hlo.trans hhi, le_rfl⟩
        event := fun _ => by simp only [hsucc]; exact hnext }

/-- A start puts event 0 on the lines and counts from a legal delay (R201). -/
theorem SerInv.start (cfg : Config) (z : Serializer) (kind : Kind) {delay : BitVec 16} (hd : delay ≠ 0#16) :
    SerInv cfg (z.start cfg delay kind) := by
  obtain ⟨ev, hev⟩ := event_of_le_last cfg z kind (Nat.zero_le _)
  exact
    { idle := fun hf => absurd hf.symm Bool.false_ne_true
      index := fun _ => Nat.zero_le _
      count := fun _ => ⟨Nat.one_le_iff_ne_zero.mpr fun h0 => hd (BitVec.eq_of_toNat_eq h0), le_rfl⟩
      event := fun _ => by
        rw [Serializer.start_lines, hev, Option.getD_some]
        exact hev }

theorem SerInv.reset (cfg : Config) : SerInv cfg .reset where
  idle _ := rfl
  index hf := absurd hf Bool.false_ne_true
  count hf := absurd hf Bool.false_ne_true
  event hf := absurd hf Bool.false_ne_true

end Serializer

section Invariant

/-! ## The invariant -/

/-- The merge never makes 10 of DELTA (R41). -/
theorem mergeDelta_ne_two {r : Int} (hr : r = 0 ∨ r = -1 ∨ r = 1) (clrD : Bool) {d : BitVec 2} (hd : d ≠ 0b10#2) :
    mergeDelta r clrD d ≠ 0b10#2 := by
  rcases hr with rfl | rfl | rfl
  · cases clrD with
    | true => rw [mergeDelta_clear]; decide
    | false => rwa [mergeDelta_keep]
  · exact (by decide : enc2 (-1) ≠ 0b10#2)
  · exact (by decide : enc2 1 ≠ 0b10#2)

/-- A depth field that takes only legal values stays legal (R38). -/
theorem warlDepth_legal {old : BitVec 7} (new : BitVec 7) (h : 1 ≤ old.toNat ∧ old.toNat ≤ 64) :
    1 ≤ (warlDepth old new).toNat ∧ (warlDepth old new).toNat ≤ 64 := by
  unfold warlDepth
  split
  · assumption
  · exact h

/-- DELAY is never written with 0 (R39). -/
theorem warlDelay_ne_zero {old : BitVec 16} (new : BitVec 16) (h : old ≠ 0#16) : warlDelay old new ≠ 0#16 := by
  unfold warlDelay
  split
  · assumption
  · exact h

theorem withConfig_legal {ps : Pins} (w : Word) (h : ∀ p, 1 ≤ (ps.get p).n.toNat ∧ (ps.get p).n.toNat ≤ 64)
    (p : PinId) : 1 ≤ ((ps.withConfig w).get p).n.toNat ∧ ((ps.withConfig w).get p).n.toNat ≤ 64 := by
  cases p with
  | a => exact warlDepth_legal _ (h .a)
  | b => exact warlDepth_legal _ (h .b)
  | sw => exact warlDepth_legal _ (h .sw)

section

variable {s : State} {op : HostOp}

theorem HostAccess.depth_legal (h : HostAccess s op) (hs : Inv s) (p : PinId) :
    1 ≤ (op.wr.pins.get p).n.toNat ∧ (op.wr.pins.get p).n.toNat ≤ 64 := by
  obtain hk | ⟨-, -, hw⟩ := h.pins_cases
  · rw [hk]; exact hs.depth p
  · rw [hw]; exact withConfig_legal _ hs.depth p

theorem HostAccess.delay_ne_zero (h : HostAccess s op) (hs : Inv s) : op.wr.delay ≠ 0#16 := by
  obtain hk | ⟨-, -, hw⟩ := h.delay_cases
  · rw [hk]; exact hs.delay
  · rw [hw]; exact warlDelay_ne_zero _ hs.delay

/-- What the host writes to the serializer is a start, if anything. -/
theorem HostAccess.serInv (h : HostAccess s op) (hs : Inv s) : SerInv s.cfg op.wr.ser := by
  obtain hk | ⟨-, -, -, -, hw⟩ | ⟨-, on, bri, hw⟩ := h.ser_cases
  · rw [hk]; exact hs.serInv
  · rw [hw]; exact SerInv.start _ _ _ hs.delay
  · rw [hw]; exact SerInv.start _ _ _ hs.delay

theorem HostAccess.runCycle_serInv (h : HostAccess s op) (hs : Inv s) : SerInv s.cfg (runCycle op s).ser := by
  cases hb : s.ser.busy with
  | true => rw [runCycle_ser_busy hb]; exact hs.serInv.advance hb
  | false => rw [runCycle_ser_idle hb]; exact h.serInv hs

/-- A cycle without reset keeps the invariant. -/
theorem HostAccess.runCycle_inv (h : HostAccess s op) (hs : Inv s) : Inv (runCycle op s) := by
  obtain ⟨hidle, hindex, hcount, hevent⟩ := h.runCycle_serInv hs
  exact
    { param := hs.param
      delta := mergeDelta_ne_two (pollCycle_r_cases _ _ _ _) _ hs.delta
      depth := fun p => by
        rw [runCycle_pins_get, Pin.atEdge_n]
        exact h.depth_legal hs p
      delay := h.delay_ne_zero hs
      idle := hidle
      index := hindex
      count := hcount
      event := hevent }

end

@[simp] theorem resetOf_pins_get (cfg : Config) (env : Env) (p : PinId) :
    (State.resetOf cfg env).pins.get p = .reset cfg := by
  cases p <;> rfl

/-- The reset state meets the invariant for every legal `P_DELAY_RESET`. -/
theorem inv_resetOf {cfg : Config} (env : Env) (h : cfg.pDelayReset ≠ 0#16) : Inv (.resetOf cfg env) := by
  obtain ⟨hidle, hindex, hcount, hevent⟩ := SerInv.reset cfg
  exact
    { param := h
      delta := (by decide : 0#2 ≠ 0b10#2)
      depth := fun p => by
        rw [resetOf_pins_get]
        exact (by decide : 1 ≤ (64#7).toNat ∧ (64#7).toNat ≤ 64)
      delay := h
      idle := hidle
      index := hindex
      count := hcount
      event := hevent }

/-- Settles O9: `State.reset` is the reset state for the default parameters, whose `P_DELAY_RESET` is not 0. -/
theorem invariantHoldsAtReset : Obligations.InvariantHoldsAtReset :=
  inv_resetOf _ (by decide)

/-- Settles O10: a reset cycle establishes the invariant, and every cycle that a host access can ask for keeps it. -/
theorem everyStepKeepsTheInvariant : Obligations.EveryStepKeepsTheInvariant := by
  intro s t hs h
  obtain ⟨-, rfl⟩ | ⟨-, rfl⟩ := step_reset_or_cycle h
  · exact inv_resetOf _ hs.param
  · exact (cycleOp_access s).runCycle_inv hs

end Invariant

section InputSide

/-! ## The input side -/

/-- Two states agree on the input side: the parameters, the coming inputs, the pins, QST, DELTA and PRESS. -/
structure InputAgree (s s' : State) : Prop where
  cfg : s.cfg = s'.cfg
  inputs : s.env.inputs = s'.env.inputs
  drawn : s.env.drawn = s'.env.drawn
  pins : s.pins = s'.pins
  qst : s.qst = s'.qst
  delta : s.delta = s'.delta
  press : s.press = s'.press

/-- Two operations ask the same of the input side. -/
structure RequestAgree (op op' : HostOp) : Prop where
  pins : op.wr.pins = op'.wr.pins
  tick : op.tick = op'.tick
  clrD : op.clrD = op'.clrD
  clrP : op.clrP = op'.clrP

section

variable {s s' : State} {op op' : HostOp}

theorem InputAgree.now (h : InputAgree s s') : s.now = s'.now := by
  unfold State.now
  rw [h.inputs, h.drawn]

theorem RequestAgree.withRead (h : RequestAgree op op') (hnow : s.now = s'.now) (a : BitVec 3) :
    RequestAgree (op.withRead a s) (op'.withRead a s') where
  pins := by simp only [HostOp.withRead_wr, h.pins]
  tick := by simp only [HostOp.withRead_tick, h.tick]
  clrD := by simp only [HostOp.withRead_clrD, h.clrD, hnow]
  clrP := by simp only [HostOp.withRead_clrP, h.clrP, hnow]

theorem commandOp_requestAgree (h : s.pins = s'.pins) (c : Command) :
    RequestAgree (commandOp c s) (commandOp c s') := by
  obtain ⟨htick, hclrD, hclrP⟩ := commandOp_requests_agree c s s'
  exact ⟨by rw [commandOp_pins, commandOp_pins, h], htick, hclrD, hclrP⟩

theorem readOp_requestAgree (h : s.pins = s'.pins) (a : BitVec 3) : RequestAgree (readOp a s) (readOp a s') :=
  ⟨h, rfl, rfl, rfl⟩

theorem instrOp_requestAgree (h : InputAgree s s') (i : Instr) : RequestAgree (instrOp i s) (instrOp i s') := by
  cases i with
  | rdCmd | rdStatus | rdEvents | rdEventsRc | rdConfig | rdDelay => exact readOp_requestAgree h.pins _
  | rdRsvd x => exact readOp_requestAgree h.pins _
  | wrStatus w | wrEvents w | wrEventsRc w | wrDelay w =>
    refine RequestAgree.withRead ?_ h.now _
    exact ⟨h.pins, rfl, rfl, rfl⟩
  | wrRsvd x w =>
    refine RequestAgree.withRead ?_ h.now _
    exact ⟨h.pins, rfl, rfl, rfl⟩
  | wrConfig w =>
    refine RequestAgree.withRead ?_ h.now _
    exact ⟨congrArg (Pins.withConfig · w) h.pins, rfl, rfl, rfl⟩
  | _ => exact (commandOp_requestAgree h.pins _).withRead h.now _

theorem cycleOp_requestAgree (h : InputAgree s s') : RequestAgree (cycleOp s) (cycleOp s') := by
  cases hf : fetch s.now with
  | some i =>
    rw [cycleOp_of_fetch hf, cycleOp_of_fetch (h.now ▸ hf)]
    exact instrOp_requestAgree h i
  | none =>
    rw [cycleOp_of_fetch_none hf, cycleOp_of_fetch_none (h.now ▸ hf)]
    exact ⟨h.pins, rfl, rfl, rfl⟩

theorem runCycle_inputAgree (h : InputAgree s s') (hop : RequestAgree op op') :
    InputAgree (runCycle op s) (runCycle op' s') where
  cfg := h.cfg
  inputs := by simp only [runCycle_env, Env.advance_inputs, h.inputs]
  drawn := by simp only [runCycle_env, Env.advance_drawn, h.inputs, h.drawn]
  pins := by simp only [runCycle, h.now, h.cfg, h.pins, h.qst, hop.pins, hop.tick]
  qst := by simp only [runCycle_qst, h.now, h.cfg, h.pins, h.qst, hop.tick]
  delta := by simp only [runCycle_delta, h.now, h.cfg, h.pins, h.qst, h.delta, hop.tick, hop.clrD]
  press := by simp only [runCycle_press, h.now, h.cfg, h.pins, h.qst, h.press, hop.tick, hop.clrP]

theorem resetOf_inputAgree (h : InputAgree s s') (w w' : Word) :
    InputAgree (.resetOf s.cfg (s.env.advance w)) (.resetOf s'.cfg (s'.env.advance w')) where
  cfg := h.cfg
  inputs := by simp only [State.resetOf, Env.advance_inputs, h.inputs]
  drawn := by simp only [State.resetOf, Env.advance_drawn, h.inputs, h.drawn]
  pins := by simp only [State.resetOf, h.cfg]
  qst := rfl
  delta := rfl
  press := rfl

theorem step_inputAgree {t t' : State} (h : InputAgree s s') (ht : step s = .next t) (ht' : step s' = .next t') :
    InputAgree t t' := by
  obtain ⟨hr, rfl⟩ | ⟨hr, rfl⟩ := step_reset_or_cycle ht
  · rw [step_of_rst (h.now ▸ hr)] at ht'
    injection ht' with ht'
    exact ht' ▸ resetOf_inputAgree h _ _
  · rw [step_of_not_rst (h.now ▸ hr)] at ht'
    injection ht' with ht'
    exact ht' ▸ runCycle_inputAgree h (cycleOp_requestAgree h)

end

/-- Settles O47: a step keeps the agreement on the input side. -/
theorem inputSideIgnoresDisplaySide : Obligations.InputSideIgnoresDisplaySide := by
  intro s t s' t' ht ht' hcfg hinputs hdrawn hpins hqst hdelta hpress
  obtain ⟨h1, h2, h3, h4, h5, h6, h7⟩ :=
    step_inputAgree ⟨hcfg, hinputs, hdrawn, hpins, hqst, hdelta, hpress⟩ ht ht'
  exact ⟨h1, h2, h3, h4, h5, h6, h7⟩

end InputSide

section PresentedInstruction

/-! ## The instruction that the bus presents -/

/-- The bytes of every well-formed instruction decode to it: the family `Laws.RoundTrip`, put together. -/
theorem decode_encode (i : Instr) (h : i.wf = true) : decode (encode i) = .ok i := by
  cases i with
  | nop => exact Laws.RoundTrip.nop h
  | clear => exact Laws.RoundTrip.clear h
  | setpix row col pm => exact Laws.RoundTrip.setpix row col pm h
  | clrpix row col pm => exact Laws.RoundTrip.clrpix row col pm h
  | wrframe => exact Laws.RoundTrip.wrframe h
  | dispctrl on bri => exact Laws.RoundTrip.dispctrl on bri h
  | poll => exact Laws.RoundTrip.poll h
  | evclr cd cp => exact Laws.RoundTrip.evclr cd cp h
  | illegal w => exact Laws.RoundTrip.illegal w h
  | rdCmd => exact Laws.RoundTrip.rdCmd h
  | rdStatus => exact Laws.RoundTrip.rdStatus h
  | rdEvents => exact Laws.RoundTrip.rdEvents h
  | rdEventsRc => exact Laws.RoundTrip.rdEventsRc h
  | rdConfig => exact Laws.RoundTrip.rdConfig h
  | rdDelay => exact Laws.RoundTrip.rdDelay h
  | rdRsvd x => exact Laws.RoundTrip.rdRsvd x h
  | wrCmd w => exact Laws.RoundTrip.wrCmd w h
  | wrStatus w => exact Laws.RoundTrip.wrStatus w h
  | wrEvents w => exact Laws.RoundTrip.wrEvents w h
  | wrEventsRc w => exact Laws.RoundTrip.wrEventsRc w h
  | wrConfig w => exact Laws.RoundTrip.wrConfig w h
  | wrDelay w => exact Laws.RoundTrip.wrDelay w h
  | wrRsvd x w => exact Laws.RoundTrip.wrRsvd x w h

/-- A command's own word decodes to it. -/
theorem toInstr_decodeCommand_signals {i : Instr} (h : i.wf = true) (hc : i.isCommand = true) :
    (decodeCommand i.signals.wdata).toInstr = i := by
  have hd := decode_encode i h
  rw [encode, if_pos hc, decode_bytesOfWord] at hd
  injection hd

/-- A bus operation's descriptor and data word decode to it. -/
theorem decodeOperation_signals {i : Instr} (h : i.wf = true) (hc : i.isCommand = false) :
    decodeOperation (BitVec.ofBool i.signals.we ++ i.signals.addr) i.signals.wdata = i := by
  have hd := decode_encode i h
  rw [encode, hc, if_neg Bool.false_ne_true, decode_descriptor] at hd
  injection hd

/-- The descriptor of a read does not look at the data word. -/
theorem decodeOperation_read_wdata (a : BitVec 3) (w w' : Word) :
    decodeOperation (0#1 ++ a) w = decodeOperation (0#1 ++ a) w' := by
  rcases wordAddr_cases a with rfl | rfl | rfl | rfl | rfl | rfl | rfl | rfl <;> rfl

theorem signals_of_isCommand {i : Instr} (h : i.isCommand = true) : i.signals.we = true ∧ i.signals.addr = 0#3 := by
  cases i with
  | nop | clear | wrframe | poll => exact ⟨rfl, rfl⟩
  | setpix | clrpix | dispctrl | evclr | illegal => exact ⟨rfl, rfl⟩
  | _ => exact absurd h Bool.false_ne_true

/-- Of the bus operations only WR.CMD writes at address 0. -/
theorem eq_wrCmd_of_signals {i : Instr} (hc : i.isCommand = false) (hwe : i.signals.we = true)
    (ha : i.signals.addr = 0#3) : i = .wrCmd i.signals.wdata := by
  cases i with
  | wrCmd w => rfl
  | wrStatus w | wrEvents w | wrEventsRc w | wrConfig w | wrDelay w => simp [Instr.signals] at ha
  | wrRsvd x w => cases x <;> simp [Instr.signals] at ha
  | rdCmd | rdStatus | rdEvents | rdEventsRc | rdConfig | rdDelay | rdRsvd x => simp [Instr.signals] at hwe
  | _ => simp [Instr.isCommand] at hc

/-- R299: WR.CMD is the command its word decodes to. -/
theorem exec_wrCmd (w : Word) (s : State) : exec (.wrCmd w) s = exec (decodeCommand w).toInstr s := by
  rw [exec_eq_runCycle, exec_eq_runCycle, instrOp_toInstr]
  rfl

/-- What `presents` says of the cycle's signals. -/
theorem presents_iff (c : CycleIn) (i : Instr) :
    c.presents i = true ↔
      c.rst = false ∧ c.busWe = i.signals.we ∧ c.busRe = (!i.signals.we) ∧ c.busAddr = i.signals.addr ∧
        (i.signals.we = true → c.busWdata = i.signals.wdata) := by
  cases hwe : i.signals.we <;> simp [CycleIn.presents, hwe, and_assoc]

/-- A cycle that presents an instruction is decoded to it, or for WR.CMD to its command. -/
theorem fetch_of_presents {c : CycleIn} {i : Instr} (hwf : i.wf = true) (h : c.presents i = true) :
    fetch c = some i ∨ (∃ w, i = .wrCmd w ∧ fetch c = some (decodeCommand w).toInstr) := by
  obtain ⟨-, hwe, hre, haddr, hdata⟩ := (presents_iff c i).mp h
  cases hc : i.isCommand with
  | true =>
    obtain ⟨hwe', haddr'⟩ := signals_of_isCommand hc
    left
    rw [fetch_command (hwe.trans hwe') (haddr.trans haddr'), hdata hwe', toInstr_decodeCommand_signals hwf hc]
  | false =>
    have hop := decodeOperation_signals hwf hc
    cases hw : i.signals.we with
    | false =>
      rw [hw] at hwe hre hop
      left
      rw [fetch_read hwe hre, haddr, decodeOperation_read_wdata _ _ i.signals.wdata]
      exact congrArg some hop
    | true =>
      rw [hw] at hwe hop
      by_cases h0 : i.signals.addr = 0#3
      · right
        refine ⟨i.signals.wdata, eq_wrCmd_of_signals hc hw h0, ?_⟩
        rw [fetch_command hwe (haddr.trans h0), hdata hw]
      · left
        rw [fetch_write hwe (haddr ▸ h0), haddr, hdata hw]
        exact congrArg some hop

/-- Settles O5: the decoder reads the presented instruction back from its signals, and WR.CMD's meaning is its
command's. -/
theorem stepRunsThePresentedInstruction : Obligations.StepRunsThePresentedInstruction := by
  intro s i hwf h
  obtain ⟨hr, -⟩ := (presents_iff s.now i).mp h
  obtain hf | ⟨w, rfl, hf⟩ := fetch_of_presents hwf h
  · rw [step_of_not_rst hr, cycleOp_of_fetch hf, exec_eq_runCycle]
  · rw [step_of_not_rst hr, cycleOp_of_fetch hf, exec_wrCmd, exec_eq_runCycle]

end PresentedInstruction

section ResetAndIdle

/-! ## Reset cycles and idle cycles -/

theorem flag_replicate_zero (r c : BitVec 5) : flag (Vector.replicate 32 0#32) r c = false := by
  simp [flag, Vector.get_eq_getElem]

theorem Frame.plane_zero (ch : BitVec 4) (p : BitVec 1) : Frame.zero.plane ch p = 0#64 := by
  unfold Frame.plane Frame.zero
  split <;> simp [Vector.get_eq_getElem]

theorem histReset_getLsbD (cfg : Config) {j : Nat} (hj : j < 64) : cfg.histReset.getLsbD j = cfg.pPinResetLevel := by
  unfold Config.histReset
  cases cfg.pPinResetLevel with
  | false => exact BitVec.getLsbD_zero
  | true =>
    rw [if_pos rfl, BitVec.getLsbD_allOnes]
    exact decide_eq_true hj

/-- Settles O7: the answer is `State.resetOf`, whose elements are those of the reset column of R30. -/
theorem resetCycleWritesEveryElement : Obligations.ResetCycleWritesEveryElement := by
  intro s hr
  refine ⟨_, step_of_rst hr, fun r c => ⟨flag_replicate_zero r c, flag_replicate_zero r c⟩, Frame.plane_zero,
    rfl, rfl, rfl, rfl, rfl, rfl, rfl, rfl, fun p => ?_, rfl, rfl, rfl, rfl, rfl, rfl, rfl⟩
  rw [resetOf_pins_get]
  exact ⟨rfl, rfl, rfl, rfl, fun j hj => histReset_getLsbD s.cfg hj⟩

/-- Settles O8, by evaluation of `readReg` at the one state `State.reset`. -/
theorem resetStateReadValues : Obligations.ResetStateReadValues := by
  unfold Obligations.ResetStateReadValues
  decide

/-- A cycle in which the host writes nothing leaves alone all that only the host writes. -/
theorem runCycle_hostKept {op : HostOp} {s : State} (h : op.wr = s) : HostKept s (runCycle op s) := by
  refine ⟨fun r c => ?_, runCycle_serGoesOn (by rw [h]), ⟨?_, fun p => ?_⟩, ?_, ?_⟩
  · rw [runCycle_m, h]; exact ⟨rfl, rfl⟩
  · rw [runCycle_delay, h]
  · rw [runCycle_pins_get, Pin.atEdge_n, h]
  · rw [runCycle_ovr, h]
  · rw [runCycle_cmderr, h]

/-- Settles O11: the operation of a cycle without an access writes nothing and requests nothing. -/
theorem idleCycleRunsOnlyItsOwnParts : Obligations.IdleCycleRunsOnlyItsOwnParts := by
  intro s hr hwe hre
  refine ⟨runCycle { wr := s } s, ?_, runCycle_hostKept rfl, ?_, rfl⟩
  · rw [step_of_not_rst hr, cycleOp_of_fetch_none (fetch_none hwe hre)]
  · have hown := runCycle_ownParts { wr := s } s
    rwa [Bool.or_false] at hown

end ResetAndIdle

end Sys2Proof.Machine

/-! SUPPORT. The command decoder by rows. A word's OP and the reserved bits of its format decide what it decodes to;
a row's mask holds exactly these bits, so decoding follows the match and mask of R115. -/

namespace Sys2Proof.Machine

section IllegalWords

/-! ## Illegal words -/

theorem and_reserved_formatN_eq_zero_iff (w : Word) : w &&& 0x0FFFFFFF#32 = 0#32 ↔ w.extractLsb' 0 28 = 0#28 :=
  and_mask_eq_zero_iff w _ 0 28 (by decide) (by decide)

theorem and_reserved_formatPix_eq_zero_iff (w : Word) : w &&& 0x0FFFF000#32 = 0#32 ↔ w.extractLsb' 12 16 = 0#16 :=
  and_mask_eq_zero_iff w _ 12 16 (by decide) (by decide)

theorem and_reserved_formatDc_eq_zero_iff (w : Word) : w &&& 0x0FFFFFF0#32 = 0#32 ↔ w.extractLsb' 4 24 = 0#24 :=
  and_mask_eq_zero_iff w _ 4 24 (by decide) (by decide)

theorem and_reserved_formatEc_eq_zero_iff (w : Word) : w &&& 0x0FFFFFFC#32 = 0#32 ↔ w.extractLsb' 2 26 = 0#26 :=
  and_mask_eq_zero_iff w _ 2 26 (by decide) (by decide)

/-- An operation code is illegal or one of the eight rows of R115. -/
theorem opcode_cases (op : BitVec 4) :
    8 ≤ op.toNat ∨ op = 0#4 ∨ op = 1#4 ∨ op = 2#4 ∨ op = 3#4 ∨ op = 4#4 ∨ op = 5#4 ∨ op = 6#4 ∨ op = 7#4 := by
  revert op; decide

theorem getLsbD_31_eq_decide (w : Word) : w.getLsbD 31 = decide (8 ≤ (w.extractLsb' 28 4).toNat) := by
  have top : ∀ op : BitVec 4, op.getLsbD 3 = decide (8 ≤ op.toNat) := by decide
  rw [← top]
  simp

/-- R116, with OP read as a number. -/
theorem illegalWord_iff (w : Word) :
    illegalWord w = true ↔
      8 ≤ (w.extractLsb' 28 4).toNat ∨ w &&& reservedMask (w.extractLsb' 28 4) ≠ 0#32 := by
  simp only [illegalWord, getLsbD_31_eq_decide, Bool.or_eq_true, decide_eq_true_eq, bne_iff_ne]

theorem not_illegalWord_iff (w : Word) :
    ¬ illegalWord w = true ↔ (w.extractLsb' 28 4).toNat < 8 ∧ w &&& reservedMask (w.extractLsb' 28 4) = 0#32 := by
  rw [illegalWord_iff, not_or, not_le, not_not]

/-- R116, with the reserved bits of each operation code as the field they form. -/
theorem illegalWord_iff_fields (w : Word) :
    illegalWord w = true ↔
      8 ≤ (w.extractLsb' 28 4).toNat ∨
      ((w.extractLsb' 28 4).toNat ∈ [0, 1, 4, 6] ∧ w.extractLsb' 0 28 ≠ 0#28) ∨
      ((w.extractLsb' 28 4).toNat ∈ [2, 3] ∧ w.extractLsb' 12 16 ≠ 0#16) ∨
      ((w.extractLsb' 28 4).toNat = 5 ∧ w.extractLsb' 4 24 ≠ 0#24) ∨
      ((w.extractLsb' 28 4).toNat = 7 ∧ w.extractLsb' 2 26 ≠ 0#26) := by
  rw [illegalWord_iff]
  obtain h8 | h | h | h | h | h | h | h | h := opcode_cases (w.extractLsb' 28 4)
  · exact iff_of_true (.inl h8) (.inl h8)
  all_goals
    simp [h, reservedMask, and_reserved_formatN_eq_zero_iff, and_reserved_formatPix_eq_zero_iff,
      and_reserved_formatDc_eq_zero_iff, and_reserved_formatEc_eq_zero_iff]

end IllegalWords

section CommandRows

/-! ## The rows of the operation-code table -/

/-- The command that operation code `op` names, with the operand fields of its format read from `w` (R111 to R115). -/
def opcodeCommand (w : Word) (op : BitVec 4) : Command :=
  match op.toNat with
  | 0 => .nop
  | 1 => .clear
  | 2 => .setpix (w.extractLsb' 0 5) (w.extractLsb' 5 5) (w.extractLsb' 10 2)
  | 3 => .clrpix (w.extractLsb' 0 5) (w.extractLsb' 5 5) (w.extractLsb' 10 2)
  | 4 => .wrframe
  | 5 => .dispctrl (w.getLsbD 3) (w.extractLsb' 0 3)
  | 6 => .poll
  | 7 => .evclr (w.getLsbD 0) (w.getLsbD 1)
  | _ => .illegal w

/-- The constructor of a row's command is the row's number: no two rows share a command, and none is ILLEGAL. -/
theorem ctorIdx_opcodeCommand (w : Word) {op : BitVec 4} (hop : op.toNat < 8) :
    (opcodeCommand w op).ctorIdx = op.toNat := by
  obtain h8 | rfl | rfl | rfl | rfl | rfl | rfl | rfl | rfl := opcode_cases op
  · omega
  all_goals rfl

theorem opcodeCommand_ne_illegal (w v : Word) {op : BitVec 4} (hop : op.toNat < 8) :
    opcodeCommand w op ≠ .illegal v := by
  intro h
  have hidx : op.toNat = 8 := by rw [← ctorIdx_opcodeCommand w hop, h]; rfl
  omega

/-- R117: a word that R116 does not call illegal decodes to the command of its operation code. -/
theorem decodeCommand_of_not_illegalWord {w : Word} (h : ¬ illegalWord w = true) :
    decodeCommand w = opcodeCommand w (w.extractLsb' 28 4) := by
  rw [illegalWord_iff_fields] at h
  unfold decodeCommand opcodeCommand
  obtain h8 | ho | ho | ho | ho | ho | ho | ho | ho := opcode_cases (w.extractLsb' 28 4)
  · exact absurd (.inl h8) h
  all_goals simpa [ho] using h

/-- `Decode` calls ILLEGAL exactly the words that R116 calls illegal. -/
theorem decodeCommand_eq_illegal_iff (w : Word) : decodeCommand w = .illegal w ↔ illegalWord w = true := by
  refine ⟨fun h => ?_, decodeCommand_of_illegalWord⟩
  by_contra hw
  obtain ⟨hop, -⟩ := (not_illegalWord_iff w).mp hw
  exact opcodeCommand_ne_illegal w w hop ((decodeCommand_of_not_illegalWord hw).symm.trans h)

/-- A word decodes to a row's command exactly when it has the row's OP and no reserved bit of the row's format. -/
theorem decodeCommand_eq_opcodeCommand_iff (w : Word) {op : BitVec 4} (hop : op.toNat < 8) :
    decodeCommand w = opcodeCommand w op ↔ w.extractLsb' 28 4 = op ∧ w &&& reservedMask op = 0#32 := by
  constructor
  · intro h
    by_cases hw : illegalWord w = true
    · rw [decodeCommand_of_illegalWord hw] at h
      exact absurd h.symm (opcodeCommand_ne_illegal w w hop)
    · rw [decodeCommand_of_not_illegalWord hw] at h
      obtain ⟨hlt, hres⟩ := (not_illegalWord_iff w).mp hw
      have hidx := congrArg Command.ctorIdx h
      rw [ctorIdx_opcodeCommand w hlt, ctorIdx_opcodeCommand w hop] at hidx
      obtain rfl := BitVec.eq_of_toNat_eq hidx
      exact ⟨rfl, hres⟩
  · rintro ⟨rfl, hres⟩
    exact decodeCommand_of_not_illegalWord ((not_illegalWord_iff w).mpr ⟨hop, hres⟩)

/-! ## Match and mask -/

/-- A row's mask (R115): the OP bits and the reserved bits of its format. -/
def rowMask (op : BitVec 4) : Word := 0xF0000000#32 ||| reservedMask op

/-- A row's match (R115): its OP above zeros. -/
def rowMatch (op : BitVec 4) : Word := op ++ 0#28

theorem rowMask_and (op : BitVec 4) :
    rowMask op &&& 0xF0000000#32 = 0xF0000000#32 ∧ rowMask op &&& reservedMask op = reservedMask op := by
  revert op; decide

theorem rowMatch_and (op : BitVec 4) :
    rowMatch op &&& 0xF0000000#32 = rowMatch op ∧ rowMatch op &&& reservedMask op = 0#32 := by
  revert op; decide

theorem and_opMask (w : Word) : w &&& 0xF0000000#32 = rowMatch (w.extractLsb' 28 4) := by
  have hw : w = w.extractLsb' 28 4 ++ w.extractLsb' 0 28 := (BitVec.extractLsb'_append_extractLsb' (len := 28)).symm
  have hmask : 0xF0000000#32 = BitVec.allOnes 4 ++ 0#28 := by decide
  conv_lhs => rw [hw, hmask, BitVec.and_append, BitVec.and_allOnes, BitVec.and_zero]
  rfl

/-- A row's mask asks for the row's OP and, apart from it, for reserved bits that are all 0. -/
theorem and_rowMask_eq_rowMatch_iff (w : Word) (op : BitVec 4) :
    w &&& rowMask op = rowMatch op ↔ w.extractLsb' 28 4 = op ∧ w &&& reservedMask op = 0#32 := by
  constructor
  · intro h
    obtain ⟨hmaskOp, hmaskRes⟩ := rowMask_and op
    obtain ⟨hmatchOp, hmatchRes⟩ := rowMatch_and op
    have hop : rowMatch (w.extractLsb' 28 4) = rowMatch op := by
      rw [← and_opMask, ← hmaskOp, ← BitVec.and_assoc, h, hmatchOp]
    refine ⟨(BitVec.append_left_inj _).mp hop, ?_⟩
    rw [← hmaskRes, ← BitVec.and_assoc, h, hmatchRes]
  · rintro ⟨rfl, hres⟩
    rw [rowMask, BitVec.and_or_distrib_left, and_opMask, hres, BitVec.or_zero]

/-- A word decodes to a row's command exactly when it matches the row under the row's mask (R115). -/
theorem and_rowMask_eq_rowMatch_iff_decodeCommand (w : Word) {op : BitVec 4} (hop : op.toNat < 8) :
    w &&& rowMask op = rowMatch op ↔ decodeCommand w = opcodeCommand w op := by
  rw [and_rowMask_eq_rowMatch_iff, decodeCommand_eq_opcodeCommand_iff w hop]

/-- A word decodes to ILLEGAL exactly when it matches no row (R115, R117). -/
theorem decodeCommand_eq_illegal_iff_no_row (w : Word) :
    decodeCommand w = .illegal w ↔ ∀ op : BitVec 4, op.toNat < 8 → w &&& rowMask op ≠ rowMatch op := by
  rw [decodeCommand_eq_illegal_iff, illegalWord_iff]
  simp only [ne_eq, and_rowMask_eq_rowMatch_iff, not_and]
  constructor
  · rintro h op hop rfl
    exact h.resolve_left (by omega)
  · intro h
    by_cases h8 : 8 ≤ (w.extractLsb' 28 4).toNat
    · exact .inl h8
    · exact .inr (h _ (by omega) rfl)

theorem forall_opcode_lt_iff (P : BitVec 4 → Prop) :
    (∀ op : BitVec 4, op.toNat < 8 → P op) ↔
      P 0#4 ∧ P 1#4 ∧ P 2#4 ∧ P 3#4 ∧ P 4#4 ∧ P 5#4 ∧ P 6#4 ∧ P 7#4 := by
  constructor
  · intro h
    exact ⟨h _ (by decide), h _ (by decide), h _ (by decide), h _ (by decide), h _ (by decide), h _ (by decide),
      h _ (by decide), h _ (by decide)⟩
  · rintro ⟨h0, h1, h2, h3, h4, h5, h6, h7⟩ op hop
    obtain h8 | rfl | rfl | rfl | rfl | rfl | rfl | rfl | rfl := opcode_cases op
    · omega
    all_goals assumption

end CommandRows

section CommandCycle

/-! ## The cycle of a command -/

theorem exec_toInstr (c : Command) (s : State) :
    exec c.toInstr s = .next (runCycle ((commandOp c s).withRead 0#3 s) s) := by
  rw [exec_eq_runCycle, instrOp_toInstr]

@[simp] theorem readReg_cmd (s : State) : readReg s 0#3 = 0#32 := rfl

@[simp] theorem commandOp_rdata (c : Command) (s : State) : (commandOp c s).rdata = 0#32 := by
  cases c <;> rfl

/-- A command's cycle shows 0 on `bus_rdata`, with a read of CMD beside the write or without one (R291, R305). -/
theorem commandCycle_env (c : Command) (s : State) :
    (runCycle ((commandOp c s).withRead 0#3 s) s).env = s.env.advance 0#32 := by
  rw [runCycle_env, HostOp.withRead_rdata, readReg_cmd, commandOp_rdata, ite_self]

/-- In a command's cycle the poll tick and the clear requests are the cycle's and the command's own: a read of CMD
beside the write clears nothing (R305). -/
theorem commandCycle_ownParts (c : Command) (s : State) :
    OwnParts (s.now.pollTick || (commandOp c s).tick) (commandOp c s).clrD (commandOp c s).clrP s
      (runCycle ((commandOp c s).withRead 0#3 s) s) := by
  simpa using runCycle_ownParts ((commandOp c s).withRead 0#3 s) s

/-- No command writes DELAY or a depth. -/
theorem commandCycle_regsKept (c : Command) (s : State) :
    RegsKept s (runCycle ((commandOp c s).withRead 0#3 s) s) := by
  refine ⟨?_, fun p => ?_⟩
  · rw [runCycle_delay, HostOp.withRead_wr, commandOp_delay]
  · rw [runCycle_pins_get, Pin.atEdge_n, HostOp.withRead_wr, commandOp_pins]

theorem commandCycle_matrixKept {c : Command} {s : State} (h : (commandOp c s).wr.m = s.m) :
    MatrixKept s (runCycle ((commandOp c s).withRead 0#3 s) s) := by
  intro row col
  rw [runCycle_m, HostOp.withRead_wr, h]
  exact ⟨rfl, rfl⟩

theorem commandCycle_serGoesOn {c : Command} {s : State} (h : (commandOp c s).wr.ser = s.ser) :
    SerGoesOn s (runCycle ((commandOp c s).withRead 0#3 s) s) :=
  runCycle_serGoesOn (by rw [HostOp.withRead_wr, h])

end CommandCycle

section Encoding

/-! ## The statements on the encoding -/

/-- Settles O1: `decode_encode`, which puts the family `Laws.RoundTrip` together. -/
theorem decodeInvertsEncode : Obligations.DecodeInvertsEncode := decode_encode

/-- Settles O2: each clause is the general rule at one row. -/
theorem commandDecodeFollowsMatchAndMask : Obligations.CommandDecodeFollowsMatchAndMask := by
  intro w
  obtain ⟨hnop, hclear, hsetpix, hclrpix, hwrframe, hdispctrl, hpoll, hevclr⟩ :=
    (forall_opcode_lt_iff _).mp fun _ hop => and_rowMask_eq_rowMatch_iff_decodeCommand w hop
  exact ⟨hnop, hclear, hsetpix, hclrpix, hwrframe, hdispctrl, hpoll, hevclr,
    (decodeCommand_eq_illegal_iff_no_row w).trans (forall_opcode_lt_iff _)⟩

/-- Settles O3: the operation of an illegal word writes CMDERR alone and requests nothing. -/
theorem illegalWordSetsCmdErrOnly : Obligations.IllegalWordSetsCmdErrOnly := by
  intro w s
  refine ⟨(decodeCommand_eq_illegal_iff w).trans (illegalWord_iff_fields w),
    ⟨_, exec_toInstr (.illegal w) s, ?cmderr, ?ovr, commandCycle_matrixKept rfl, commandCycle_serGoesOn rfl,
      commandCycle_regsKept _ s, ?own, commandCycle_env _ s⟩, fun h => ?wrCmd⟩
  case cmderr => rw [runCycle_cmderr, HostOp.withRead_wr]; rfl
  case ovr => rw [runCycle_ovr, HostOp.withRead_wr]; rfl
  case own => simpa [commandOp] using commandCycle_ownParts (.illegal w) s
  case wrCmd => rw [exec_wrCmd, h]; rfl

/-- Settles O4, by evaluation of `decodeTableWord` at the written-out words. -/
theorem writtenOutWordsDecode : Obligations.WrittenOutWordsDecode := by
  unfold Obligations.WrittenOutWordsDecode
  decide

end Encoding

end Sys2Proof.Machine

/-! SUPPORT. The address map and the physical frame (40_address_map.md). The coordinates of `AM` and of its inverse are
numbers below their widths, so that the bijection is arithmetic; a frame bit is the flag of the pixel that the inverse
gives; and a payload bit-tick is found in the frame program by its offset. -/

namespace Sys2Proof.Machine

section AddressMap

/-! ## The address map and its inverse -/

theorem toNat_addressMap_channel (r c : BitVec 5) :
    (addressMap r c).1.toNat = r.toNat / 8 + (3 - c.toNat / 8) * 4 := by
  have hr := r.isLt
  exact Nat.mod_eq_of_lt (by omega)

theorem toNat_addressMap_bit (r c : BitVec 5) :
    (addressMap r c).2.toNat = r.toNat % 8 * 8 + (7 - c.toNat % 8) :=
  Nat.mod_eq_of_lt (by omega)

theorem toNat_addressMapInv_row (ch : BitVec 4) (b : BitVec 6) :
    (addressMapInv ch b).1.toNat = 8 * (ch.toNat % 4) + b.toNat / 8 := by
  have hb := b.isLt
  exact Nat.mod_eq_of_lt (by omega)

theorem toNat_addressMapInv_col (ch : BitVec 4) (b : BitVec 6) :
    (addressMapInv ch b).2.toNat = 8 * (3 - ch.toNat / 4) + (7 - b.toNat % 8) :=
  Nat.mod_eq_of_lt (by omega)

@[simp] theorem addressMapInv_addressMap (r c : BitVec 5) :
    addressMapInv (addressMap r c).1 (addressMap r c).2 = (r, c) := by
  have hr := r.isLt
  have hc := c.isLt
  refine Prod.ext (BitVec.eq_of_toNat_eq ?row) (BitVec.eq_of_toNat_eq ?col)
  case row =>
    simp only [toNat_addressMapInv_row, toNat_addressMap_channel, toNat_addressMap_bit]
    omega
  case col =>
    simp only [toNat_addressMapInv_col, toNat_addressMap_channel, toNat_addressMap_bit]
    omega

@[simp] theorem addressMap_addressMapInv (ch : BitVec 4) (b : BitVec 6) :
    addressMap (addressMapInv ch b).1 (addressMapInv ch b).2 = (ch, b) := by
  have hch := ch.isLt
  have hb := b.isLt
  refine Prod.ext (BitVec.eq_of_toNat_eq ?channel) (BitVec.eq_of_toNat_eq ?bit)
  case channel =>
    simp only [toNat_addressMap_channel, toNat_addressMapInv_row, toNat_addressMapInv_col]
    omega
  case bit =>
    simp only [toNat_addressMap_bit, toNat_addressMapInv_row, toNat_addressMapInv_col]
    omega

/-- A pixel is mapped to a bit exactly when it is the pixel that the inverse gives for that bit (R153). -/
theorem addressMap_eq_iff {r c : BitVec 5} {ch : BitVec 4} {b : BitVec 6} :
    addressMap r c = (ch, b) ↔ (addressMapInv ch b).1 = r ∧ (addressMapInv ch b).2 = c := by
  constructor
  · intro h
    have hinv := addressMapInv_addressMap r c
    rw [h] at hinv
    exact Prod.ext_iff.mp hinv
  · rintro ⟨rfl, rfl⟩
    exact addressMap_addressMapInv ch b

end AddressMap

section PhysicalFrame

/-! ## The bits of the physical frame -/

theorem toPhys_plane_zero_getLsbD (m : Matrix) (ch : BitVec 4) (b : BitVec 6) :
    ((toPhys m).plane ch 0#1).getLsbD b.toNat = flag m.a (addressMapInv ch b).1 (addressMapInv ch b).2 :=
  toPhysPlane_getLsbD m.a ch b

theorem toPhys_plane_one_getLsbD (m : Matrix) (ch : BitVec 4) (b : BitVec 6) :
    ((toPhys m).plane ch 1#1).getLsbD b.toNat = flag m.b (addressMapInv ch b).1 (addressMapInv ch b).2 :=
  toPhysPlane_getLsbD m.b ch b

theorem toPhys_plane_zero_addressMap (m : Matrix) (r c : BitVec 5) :
    ((toPhys m).plane (addressMap r c).1 0#1).getLsbD (addressMap r c).2.toNat = flag m.a r c := by
  rw [toPhys_plane_zero_getLsbD, addressMapInv_addressMap]

theorem toPhys_plane_one_addressMap (m : Matrix) (r c : BitVec 5) :
    ((toPhys m).plane (addressMap r c).1 1#1).getLsbD (addressMap r c).2.toNat = flag m.b r c := by
  rw [toPhys_plane_one_getLsbD, addressMapInv_addressMap]

end PhysicalFrame

section PayloadTicks

/-! ## The payload's bit-ticks in the frame program -/

/-- A bit-tick carries its vector in all three events, with the clock high in the middle one (R194). -/
theorem getElem?_bitTick (v : BitVec 16) {j : Nat} (hj : j < 3) :
    (bitTick v)[j]? = some ⟨decide (j = 1), v⟩ := by
  match j, hj with
  | 0, _ | 1, _ | 2, _ => rfl

/-- The payload begins at event 55 of the frame program (R197). -/
theorem getElem?_frameProgram_payload (cfg : Config) (snap : Frame) {i : Nat} (hi : i < 384) :
    (frameProgram cfg snap)[55 + i]? = (payload snap)[i]? := by
  unfold frameProgram
  rw [List.getElem?_append_left (by simp [startSeq, stopSeq]; omega),
    List.getElem?_append_right (by simp [startSeq, stopSeq])]
  congr 1
  simp [startSeq, stopSeq]

/-- Event `j` of payload bit-tick `k` of the frame program (R196, R197). -/
theorem getElem?_frameProgram_payloadTick (cfg : Config) (snap : Frame) {k j : Nat} (hk : k < 128) (hj : j < 3) :
    (frameProgram cfg snap)[55 + 3 * k + j]? = some ⟨decide (j = 1), payloadVector snap k⟩ := by
  rw [Nat.add_assoc, getElem?_frameProgram_payload cfg snap (by omega), payload,
    getElem?_flatMap_bitTick _ _ _ _ hk hj, getElem?_bitTick _ hj]

/-- The first 64 bit-ticks of the payload carry plane 0 (R196). -/
theorem payloadVector_plane_zero (f : Frame) (ch : BitVec 4) (b : BitVec 6) :
    (payloadVector f b.toNat).getLsbD ch.toNat = (f.plane ch 0#1).getLsbD b.toNat := by
  rw [payloadVector_getLsbD, Nat.div_eq_of_lt b.isLt, Nat.mod_eq_of_lt b.isLt]

/-- The last 64 bit-ticks of the payload carry plane 1 (R196). -/
theorem payloadVector_plane_one (f : Frame) (ch : BitVec 4) (b : BitVec 6) :
    (payloadVector f (64 + b.toNat)).getLsbD ch.toNat = (f.plane ch 1#1).getLsbD b.toNat := by
  have hb : b.toNat < 64 := b.isLt
  rw [payloadVector_getLsbD, show (64 + b.toNat) / 64 = 1 by omega, Nat.add_mod_left, Nat.mod_eq_of_lt hb]

end PayloadTicks

section AddressMapStatements

/-! ## The statements on the address map -/

/-- Settles O17: neither the channel nor the bit reaches the size of its width. -/
theorem addressMapFollowsTheWiringRule : Obligations.AddressMapFollowsTheWiringRule :=
  fun r c => ⟨toNat_addressMap_channel r c, toNat_addressMap_bit r c⟩

/-- Settles O18: both inverse laws are arithmetic on the coordinates. -/
theorem addressMapIsABijection : Obligations.AddressMapIsABijection :=
  ⟨addressMapInv_addressMap, addressMap_addressMapInv,
    fun ch b => ⟨toNat_addressMapInv_row ch b, toNat_addressMapInv_col ch b⟩⟩

/-- Settles O19: a mapped bit reads its own pixel back through the inverse, and every bit is the image of the pixel
that the inverse gives. -/
theorem toPhysCarriesEveryFlag : Obligations.ToPhysCarriesEveryFlag := fun m =>
  ⟨fun r c => ⟨toPhys_plane_zero_addressMap m r c, toPhys_plane_one_addressMap m r c⟩,
    fun ch b => ⟨_, _, addressMap_addressMapInv ch b⟩⟩

/-- Settles O20: a frame bit reads the lit pixel exactly when it is that pixel's mapped bit. -/
theorem onePixelGivesOneFrameBit : Obligations.OnePixelGivesOneFrameBit := by
  intro m row col pa pb hlit ch b
  obtain ⟨ha, hb⟩ := hlit (addressMapInv ch b).1 (addressMapInv ch b).2
  rw [toPhys_plane_zero_getLsbD, toPhys_plane_one_getLsbD, ha, hb,
    decide_eq_decide.mpr (addressMap_eq_iff (r := row) (c := col))]
  exact ⟨rfl, rfl⟩

/-- Settles O21: the pixel's bit-ticks stand at their offsets in the program, and their lane carries the mapped bit. -/
theorem everyPixelGoesOutAtItsPayloadTick : Obligations.EveryPixelGoesOutAtItsPayloadTick := by
  intro cfg m r c j hj
  have hb : (addressMap r c).2.toNat < 64 := (addressMap r c).2.isLt
  refine ⟨_, _, getElem?_frameProgram_payloadTick cfg _ (by omega) hj, rfl, ?planeA,
    getElem?_frameProgram_payloadTick cfg _ (by omega) hj, rfl, ?planeB⟩
  case planeA => rw [payloadVector_plane_zero, toPhys_plane_zero_addressMap]
  case planeB => rw [payloadVector_plane_one, toPhys_plane_one_addressMap]

end AddressMapStatements

end Sys2Proof.Machine

/-! SUPPORT. The frame-buffer commands (41_frame_ops.md). NOP, CLEAR, SETPIX and CLRPIX ask their cycle to write the
matrix and nothing else, so one frame lemma serves all four; what is left of each is its decoding and its effect on a
flag. -/

namespace Sys2Proof.Machine

section MatrixCommands

/-! ## The cycle of a command that writes only the matrix -/

/-- A command whose operation is a write of the matrix `m'` answers a state with that matrix, in which everything else
is left to the cycle's other parts (R47, R175). -/
theorem exec_matrixWrite {c : Command} {s : State} {m' : Matrix}
    (hop : commandOp c s = { wr := { s with m := m' } }) :
    ∃ t, exec c.toInstr s = .next t ∧ t.m = m' ∧ SerGoesOn s t ∧ RegsKept s t ∧ StickyKept s t ∧
      OwnParts s.now.pollTick false false s t ∧ t.env = s.env.advance 0#32 := by
  refine ⟨_, exec_toInstr c s, ?matrix, ?ser, commandCycle_regsKept c s, ⟨?ovr, ?cmderr⟩, ?own, commandCycle_env c s⟩
  case matrix => rw [runCycle_m, HostOp.withRead_wr, hop]
  case ser => exact commandCycle_serGoesOn (by rw [hop])
  case ovr => rw [runCycle_ovr, HostOp.withRead_wr, hop]
  case cmderr => rw [runCycle_cmderr, HostOp.withRead_wr, hop]
  case own => simpa [hop] using commandCycle_ownParts c s

end MatrixCommands

section MatrixFlags

/-! ## The flags after a write of the matrix -/

theorem flag_off (r c : BitVec 5) : flag Matrix.off.a r c = false ∧ flag Matrix.off.b r c = false :=
  ⟨flag_replicate_zero r c, flag_replicate_zero r c⟩

/-- Where a flag is rewritten from its own old value by `f`, the result can be said of the flag that is read. -/
theorem flag_withFlag_of_flag (plane : Vector (BitVec 32) 32) (row col r c : BitVec 5) (f : Bool → Bool) :
    flag (withFlag plane row col (f (flag plane row col))) r c =
      if r = row ∧ c = col then f (flag plane r c) else flag plane r c := by
  rw [flag_withFlag]
  by_cases h : r = row ∧ c = col
  · obtain ⟨rfl, rfl⟩ := h
    rfl
  · rw [if_neg h, if_neg h]

/-- R172, flag by flag. -/
theorem flag_setPixel (m : Matrix) (row col r c : BitVec 5) (pm : BitVec 2) :
    flag (m.setPixel row col pm).a r c = (if r = row ∧ c = col then flag m.a r c || pm.getLsbD 0 else flag m.a r c) ∧
    flag (m.setPixel row col pm).b r c = (if r = row ∧ c = col then flag m.b r c || pm.getLsbD 1 else flag m.b r c) :=
  ⟨flag_withFlag_of_flag m.a row col r c (· || pm.getLsbD 0),
    flag_withFlag_of_flag m.b row col r c (· || pm.getLsbD 1)⟩

/-- R173, flag by flag. -/
theorem flag_clearPixel (m : Matrix) (row col r c : BitVec 5) (pm : BitVec 2) :
    flag (m.clearPixel row col pm).a r c =
      (if r = row ∧ c = col then flag m.a r c && !pm.getLsbD 0 else flag m.a r c) ∧
    flag (m.clearPixel row col pm).b r c =
      (if r = row ∧ c = col then flag m.b r c && !pm.getLsbD 1 else flag m.b r c) :=
  ⟨flag_withFlag_of_flag m.a row col r c (· && !pm.getLsbD 0),
    flag_withFlag_of_flag m.b row col r c (· && !pm.getLsbD 1)⟩

end MatrixFlags

section CommandWords

/-! ## The words of the commands -/

/-- Two commands that are the same instruction are the same command: different rows are different instructions. -/
theorem toInstr_injective : Function.Injective Command.toInstr := by
  intro c d h
  cases c <;> cases d <;> cases h <;> rfl

theorem toInstr_isCommand (c : Command) : c.toInstr.isCommand = true := by
  cases c <;> rfl

theorem toInstr_signals_wdata (c : Command) : c.toInstr.signals.wdata = encodeCommand c := by
  cases c <;> rfl

/-- The word of a well-formed command decodes to it (R111 to R117). -/
theorem decodeCommand_encodeCommand {c : Command} (h : c.toInstr.wf = true) : decodeCommand (encodeCommand c) = c := by
  apply toInstr_injective
  rw [← toInstr_signals_wdata]
  exact toInstr_decodeCommand_signals h (toInstr_isCommand c)

end CommandWords

section FrameStatements

/-! ## The statements on the frame-buffer commands -/

/-- Settles O12: NOP's operation writes the matrix as it was. -/
theorem nopLeavesEverythingToTheCycle : Obligations.NopLeavesEverythingToTheCycle := by
  refine ⟨decodeCommand_encodeCommand (c := .nop) rfl, fun s => ?_⟩
  obtain ⟨t, ht, hm, hser, hregs, hsticky, hcycle⟩ := exec_matrixWrite (c := .nop) (s := s) (m' := s.m) rfl
  have hmatrix : MatrixKept s t := fun r c => by rw [hm]; exact ⟨rfl, rfl⟩
  exact ⟨t, ht, ⟨hmatrix, hser, hregs, hsticky⟩, hcycle⟩

/-- Settles O13: CLEAR's operation writes `Matrix.off`, whatever BUSY is. -/
theorem clearTurnsEveryFlagOff : Obligations.ClearTurnsEveryFlagOff := by
  refine ⟨decodeCommand_encodeCommand (c := .clear) rfl, fun s => ?_⟩
  obtain ⟨t, ht, hm, hframe⟩ := exec_matrixWrite (c := .clear) (s := s) rfl
  exact ⟨t, ht, fun r c => hm ▸ flag_off r c, hframe⟩

/-- Settles O14: SETPIX's operation writes `Matrix.setPixel`, whatever BUSY is. -/
theorem setpixOrsTheSelectedFlags : Obligations.SetpixOrsTheSelectedFlags := by
  refine ⟨fun row col pm => decodeCommand_encodeCommand (c := .setpix row col pm) rfl, fun s row col pm => ?_⟩
  obtain ⟨t, ht, hm, hframe⟩ := exec_matrixWrite (c := .setpix row col pm) (s := s) rfl
  exact ⟨t, ht, fun r c => hm ▸ flag_setPixel s.m row col r c pm, hframe⟩

/-- Settles O15: CLRPIX's operation writes `Matrix.clearPixel`, whatever BUSY is. -/
theorem clrpixTurnsTheSelectedFlagsOff : Obligations.ClrpixTurnsTheSelectedFlagsOff := by
  refine ⟨fun row col pm => decodeCommand_encodeCommand (c := .clrpix row col pm) rfl, fun s row col pm => ?_⟩
  obtain ⟨t, ht, hm, hframe⟩ := exec_matrixWrite (c := .clrpix row col pm) (s := s) rfl
  exact ⟨t, ht, fun r c => hm ▸ flag_clearPixel s.m row col r c pm, hframe⟩

end FrameStatements

end Sys2Proof.Machine

/-! SUPPORT. The serializer (42_serializer.md). The two programs are laid out by their pieces, and the frame program
begins with the control program of its first command byte; one lemma says how a serial command starts its program, and
one per branch how the sequencer advances. A transaction is then followed by its position, an event `e` and the `c`
cycles already spent in it, which every cycle moves on whatever the host does. -/

namespace Sys2Proof.Machine

section Programs

/-! ## The programs, piece by piece -/

theorem length_startSeq : startSeq.length = 2 := rfl

theorem byteSeq_eq_append (b : Byte) :
    byteSeq b =
      bitTick (broadcast (b.getLsbD 0)) ++ bitTick (broadcast (b.getLsbD 1)) ++ bitTick (broadcast (b.getLsbD 2)) ++
      bitTick (broadcast (b.getLsbD 3)) ++ bitTick (broadcast (b.getLsbD 4)) ++ bitTick (broadcast (b.getLsbD 5)) ++
      bitTick (broadcast (b.getLsbD 6)) ++ bitTick (broadcast (b.getLsbD 7)) := rfl

/-- Bit-tick `i` of the byte that follows START, whatever comes after the byte (R197, R198). -/
theorem getElem?_start_byteTick (b : Byte) (rest : List LineEvent) {i j : Nat} (hi : i < 8) (hj : j < 3) :
    (startSeq ++ byteSeq b ++ rest)[2 + 3 * i + j]? = some ⟨decide (j = 1), broadcast (b.getLsbD i)⟩ := by
  have htick : (byteSeq b)[3 * i + j]? = some ⟨decide (j = 1), broadcast (b.getLsbD i)⟩ := by
    rw [byteSeq, getElem?_flatMap_bitTick _ _ _ _ hi hj, getElem?_bitTick _ hj]
  rw [List.append_assoc, Nat.add_assoc, List.getElem?_append_right (by rw [length_startSeq]; omega),
    length_startSeq, Nat.add_sub_cancel_left, List.getElem?_append_left (by rw [length_byteSeq]; omega), htick]

/-- The three events of a bit-tick, read at their own indices. -/
theorem bitTick_events {events : List LineEvent} {e : Nat} {v : BitVec 16}
    (h : ∀ {j}, j < 3 → events[e + j]? = some ⟨decide (j = 1), v⟩) {e₁ e₂ : Nat} (h₁ : e₁ = e + 1) (h₂ : e₂ = e + 2) :
    events[e]? = some ⟨false, v⟩ ∧ events[e₁]? = some ⟨true, v⟩ ∧ events[e₂]? = some ⟨false, v⟩ := by
  subst h₁ h₂
  exact ⟨h (j := 0) (by decide), h (j := 1) (by decide), h (j := 2) (by decide)⟩

/-- The frame program opens with the control program of the data command, and START, the address command, the payload
and STOP follow (R197, R198). -/
theorem frameProgram_eq_ctrlProgram_append (cfg : Config) (snap : Frame) :
    frameProgram cfg snap =
      ctrlProgram cfg.pCmdData ++ (startSeq ++ byteSeq cfg.pCmdAddr ++ (payload snap ++ stopSeq)) := by
  simp only [frameProgram, ctrlProgram, List.append_assoc]

theorem getElem?_frameProgram_of_lt (cfg : Config) (snap : Frame) {e : Nat} (he : e < 29) :
    (frameProgram cfg snap)[e]? = (ctrlProgram cfg.pCmdData)[e]? := by
  rw [frameProgram_eq_ctrlProgram_append, List.getElem?_append_left (by rwa [length_ctrlProgram])]

theorem getElem?_frameProgram_add (cfg : Config) (snap : Frame) (e : Nat) :
    (frameProgram cfg snap)[29 + e]? =
      (startSeq ++ byteSeq cfg.pCmdAddr ++ (payload snap ++ stopSeq))[e]? := by
  rw [frameProgram_eq_ctrlProgram_append, List.getElem?_append_right (by rw [length_ctrlProgram]; omega),
    length_ctrlProgram, Nat.add_sub_cancel_left]

/-- The frame program ends with STOP (R197). -/
theorem getElem?_frameProgram_stop (cfg : Config) (snap : Frame) (j : Nat) :
    (frameProgram cfg snap)[439 + j]? = stopSeq[j]? := by
  rw [frameProgram, List.getElem?_append_right (by simp [startSeq, stopSeq])]
  simp [startSeq, stopSeq]

end Programs

section ProgramStatements

/-! ## The statements on the programs -/

/-- Settles O22: `byteSeq_eq_append`, with `broadcast` written out; the rest is how the pieces are defined. -/
theorem framingAndBitTickEvents : Obligations.FramingAndBitTickEvents :=
  ⟨rfl, rfl, fun _ => rfl, byteSeq_eq_append⟩

/-- Settles O23: `k div 64` is 0 in the first half of the payload and 1 in the second. -/
theorem payloadLaneCarriesItsBit : Obligations.PayloadLaneCarriesItsBit := by
  intro f k hk ch
  rw [payloadVector_getLsbD]
  by_cases h : k < 64
  · rw [if_pos h, Nat.div_eq_of_lt h]
  · rw [if_neg h, show k / 64 = 1 by omega]

/-- Settles O25: the byte's bit-ticks stand between the two events of START and the three of STOP. -/
theorem controlProgramFollowsItsTable : Obligations.ControlProgramFollowsItsTable := fun cb =>
  ⟨length_ctrlProgram cb, rfl, rfl, rfl,
    fun _ hi => bitTick_events (getElem?_start_byteTick cb stopSeq hi) (by omega) (by omega), rfl, rfl, rfl⟩

/-- Settles O24: the first 29 events are the control program's, the next 26 again START and a byte, and the payload and
STOP stand at their offsets. -/
theorem frameProgramFollowsItsTable : Obligations.FrameProgramFollowsItsTable := by
  intro cfg snap
  have hdata : ∀ {i}, i < 8 → ∀ {j}, j < 3 →
      (frameProgram cfg snap)[2 + 3 * i + j]? = some ⟨decide (j = 1), broadcast (cfg.pCmdData.getLsbD i)⟩ :=
    fun hi _ hj => by
      rw [getElem?_frameProgram_of_lt cfg snap (by omega)]
      exact getElem?_start_byteTick _ stopSeq hi hj
  have haddr : ∀ {i}, i < 8 → ∀ {j}, j < 3 →
      (frameProgram cfg snap)[31 + 3 * i + j]? = some ⟨decide (j = 1), broadcast (cfg.pCmdAddr.getLsbD i)⟩ :=
    fun {i} hi {j} hj => by
      rw [show 31 + 3 * i + j = 29 + (2 + 3 * i + j) by omega, getElem?_frameProgram_add]
      exact getElem?_start_byteTick _ _ hi hj
  refine ⟨length_frameProgram cfg snap, rfl, ?e0, ?e1, fun i hi => bitTick_events (hdata hi) (by omega) (by omega),
    ?e26, ?e27, ?e28, getElem?_frameProgram_add cfg snap 0, getElem?_frameProgram_add cfg snap 1,
    fun i hi => bitTick_events (haddr hi) (by omega) (by omega),
    fun k hk => bitTick_events (getElem?_frameProgram_payloadTick cfg snap hk) (by omega) (by omega),
    getElem?_frameProgram_stop cfg snap 0, getElem?_frameProgram_stop cfg snap 1,
    getElem?_frameProgram_stop cfg snap 2⟩
  all_goals exact getElem?_frameProgram_of_lt cfg snap (by decide)

end ProgramStatements

section SerialCommands

/-! ## The cycle of a serial command -/

/-- Either program begins with the first event of START (R192). -/
theorem event_zero (cfg : Config) (z : Serializer) (kind : Kind) :
    z.event cfg kind 0 = some ⟨true, 0x0000#16⟩ := by
  cases kind <;> rfl

/-- A command that writes no flag and requests nothing leaves the matrix and the registers alone, and the rest to its
cycle's other parts. -/
theorem commandCycle_frame_of_no_request {c : Command} {s : State} (hm : (commandOp c s).wr.m = s.m)
    (htick : (commandOp c s).tick = false) (hclrD : (commandOp c s).clrD = false)
    (hclrP : (commandOp c s).clrP = false) :
    let t := runCycle ((commandOp c s).withRead 0#3 s) s
    MatrixKept s t ∧ RegsKept s t ∧ OwnParts s.now.pollTick false false s t ∧ t.env = s.env.advance 0#32 := by
  have hown := commandCycle_ownParts c s
  rw [htick, hclrD, hclrP, Bool.or_false] at hown
  exact ⟨commandCycle_matrixKept hm, commandCycle_regsKept c s, hown, commandCycle_env c s⟩

/-- A command whose operation is a start of the program `kind` answers, where BUSY is 0, a state that sends it from its
first event, in which everything else is left to the cycle's other parts (R201). -/
theorem exec_serialStart {c : Command} {s : State} {z : Serializer} {kind : Kind} (hb : s.ser.busy = false)
    (hop : commandOp c s = { wr := { s with ser := z.start s.cfg s.delay kind } }) :
    ∃ t, exec c.toInstr s = .next t ∧ t.ser = z.start s.cfg s.delay kind ∧ StickyKept s t ∧
      MatrixKept s t ∧ RegsKept s t ∧ OwnParts s.now.pollTick false false s t ∧ t.env = s.env.advance 0#32 := by
  refine ⟨_, exec_toInstr c s, ?ser, ⟨?ovr, ?cmderr⟩, commandCycle_frame_of_no_request ?_ ?_ ?_ ?_⟩
  case ser => rw [runCycle_ser_idle hb, HostOp.withRead_wr, hop]
  case ovr => rw [runCycle_ovr, HostOp.withRead_wr, hop]
  case cmderr => rw [runCycle_cmderr, HostOp.withRead_wr, hop]
  all_goals rw [hop]

/-- A command whose operation is to raise Overrun answers a state with OVR = 1, in which everything else is left to the
cycle's other parts (R204). -/
theorem exec_overrun {c : Command} {s : State} (hop : commandOp c s = { wr := raise .overrun s }) :
    ∃ t, exec c.toInstr s = .next t ∧ t.ovr = true ∧ t.cmderr = s.cmderr ∧ SerGoesOn s t ∧
      MatrixKept s t ∧ RegsKept s t ∧ OwnParts s.now.pollTick false false s t ∧ t.env = s.env.advance 0#32 := by
  refine ⟨_, exec_toInstr c s, ?ovr, ?cmderr, commandCycle_serGoesOn ?_, commandCycle_frame_of_no_request ?_ ?_ ?_ ?_⟩
  case ovr => rw [runCycle_ovr, HostOp.withRead_wr, hop, raise_overrun_ovr]
  case cmderr => rw [runCycle_cmderr, HostOp.withRead_wr, hop, raise_overrun_cmderr]
  all_goals simp only [hop, raise_overrun_ser, raise_overrun_m]

theorem commandOp_wrframe_idle {s : State} (h : s.ser.busy = false) :
    commandOp .wrframe s =
      { wr := { s with ser := { s.ser with snap := toPhys s.m }.start s.cfg s.delay .frame } } := by
  rw [commandOp, wrframeWrites_idle h]

theorem commandOp_dispctrl_idle {s : State} (on : Bool) (bri : BitVec 3) (h : s.ser.busy = false) :
    commandOp (.dispctrl on bri) s =
      { wr := { s with ser := { s.ser with cb := s.cfg.dispCtrl on bri }.start s.cfg s.delay .ctrl } } := by
  rw [commandOp, dispctrlWrites_idle on bri h]

/-- Settles O26: WRFRAME's operation is a start of the frame program with the new snapshot. -/
theorem wrframeStartsTheFrameProgram : Obligations.WrframeStartsTheFrameProgram := by
  refine ⟨decodeCommand_encodeCommand (c := .wrframe) rfl, fun s hb => ?_⟩
  obtain ⟨t, ht, hser, hsticky, hm, hregs, hcycle⟩ := exec_serialStart hb (commandOp_wrframe_idle hb)
  refine ⟨t, ht, ?_⟩
  rw [hser, Serializer.start_lines, event_zero]
  exact ⟨rfl, rfl, rfl, rfl, rfl, rfl, rfl, rfl, hm, hregs, hsticky, hcycle⟩

/-- Settles O27: DISPCTRL's operation is a start of the control program with its control byte. -/
theorem dispctrlStartsTheControlProgram : Obligations.DispctrlStartsTheControlProgram := by
  refine ⟨fun on bri => decodeCommand_encodeCommand (c := .dispctrl on bri) rfl, fun s on bri hb => ?_⟩
  obtain ⟨t, ht, hser, hsticky, hm, hregs, hcycle⟩ := exec_serialStart hb (commandOp_dispctrl_idle on bri hb)
  refine ⟨t, ht, ?_⟩
  rw [hser, Serializer.start_lines, event_zero]
  exact ⟨rfl, rfl, rfl, rfl, rfl, rfl, rfl, rfl, hm, hregs, hsticky, hcycle⟩

/-- Settles O28: while BUSY both commands' operation is to raise Overrun. -/
theorem serialCommandWhileBusyIsDropped : Obligations.SerialCommandWhileBusyIsDropped := by
  intro s i hb hi
  obtain ⟨c, rfl, hop⟩ : ∃ c : Command, i = c.toInstr ∧ commandOp c s = { wr := raise .overrun s } := by
    obtain rfl | ⟨on, bri, rfl⟩ := hi
    · exact ⟨.wrframe, rfl, by rw [commandOp, wrframeWrites_busy hb]⟩
    · exact ⟨.dispctrl on bri, rfl, by rw [commandOp, dispctrlWrites_busy on bri hb]⟩
  obtain ⟨t, ht, hovr, hcmderr, hser, hm, hcycle⟩ := exec_overrun hop
  exact ⟨t, ht, hovr, hcmderr, hm, hser, hcycle⟩

end SerialCommands

section Advance

/-! ## The branches of the advance -/

variable {cfg : Config} {z : Serializer}

theorem serAdvance_of_one_lt_wcnt (hw : 1 < z.wcnt.toNat) :
    serAdvance cfg z = { z with wcnt := z.wcnt - 1#16 } :=
  if_pos hw

theorem serAdvance_of_eidx_eq_last (hw : z.wcnt.toNat ≤ 1) (he : z.eidx.toNat = z.kind.last) :
    serAdvance cfg z = { z with busy := false } := by
  rw [serAdvance, if_neg (Nat.not_lt.mpr hw), if_pos he]

/-- Before the last event there is a next one, and it goes out (R202). -/
theorem serAdvance_of_eidx_lt_last (hw : z.wcnt.toNat ≤ 1) (he : z.eidx.toNat < z.kind.last) :
    ∃ ev, z.event cfg z.kind (z.eidx.toNat + 1) = some ev ∧
      serAdvance cfg z = { z with eidx := z.eidx + 1#9, wcnt := z.dl, lines := ev } := by
  obtain ⟨ev, hev⟩ := event_of_le_last cfg z z.kind (Nat.succ_le_of_lt he)
  refine ⟨ev, hev, ?_⟩
  rw [serAdvance, if_neg (Nat.not_lt.mpr hw), if_neg (Nat.ne_of_lt he), hev]
  rfl

/-- In every cycle without reset that finds BUSY set, the serializer advances and nothing else happens to it. -/
theorem step_ser_busy {s t : State} (hb : s.ser.busy = true) (hr : s.now.rst = false) (h : step s = .next t) :
    t.ser = serAdvance s.cfg s.ser := by
  rw [step_of_not_rst hr] at h
  injection h with h
  rw [← h, runCycle_ser_busy hb]

end Advance

/-- Settles O29: each clause is a branch of `SerAdvance`, which no host access touches. -/
theorem serializerAdvancesInEveryBusyCycle : Obligations.SerializerAdvancesInEveryBusyCycle := by
  intro s t hb hr h
  rw [step_ser_busy hb hr h]
  refine ⟨serAdvance_of_one_lt_wcnt, serAdvance_of_eidx_eq_last, fun hw he => ?_⟩
  obtain ⟨ev, hev, hadv⟩ := serAdvance_of_eidx_lt_last (cfg := s.cfg) hw he
  rw [hadv]
  exact ⟨toNat_eidx_succ he, rfl, hev, hb, rfl, rfl, rfl, rfl⟩

section Transaction

/-! ## A transaction, cycle by cycle -/

/-- The event a program has at an index depends on SNAP and CB alone. -/
theorem Serializer.event_congr {z z' : Serializer} (hsnap : z'.snap = z.snap) (hcb : z'.cb = z.cb) (cfg : Config)
    (kind : Kind) (e : Nat) : z'.event cfg kind e = z.event cfg kind e := by
  unfold Serializer.event
  rw [hsnap, hcb]

/-- The serializer's program is `events`, and each of them is held for `d` cycles. -/
structure Sends (cfg : Config) (z : Serializer) (events : List LineEvent) (d : Nat) : Prop where
  program : ∀ e, z.event cfg z.kind e = events[e]?
  length : events.length = z.kind.last + 1
  delay : z.dl.toNat = d

/-- The serializer is in event `e` of `events`, after `c` of the event's `d` cycles. -/
structure SendsAt (cfg : Config) (z : Serializer) (events : List LineEvent) (d e c : Nat) : Prop
    extends Sends cfg z events d where
  busy : z.busy = true
  index : z.eidx.toNat = e
  count : z.wcnt.toNat + c = d
  waits : c < d
  lines : events[e]? = some z.lines

/-- After `n` cycles of a transaction: the place that `n` gives while any of its `events.length * d` cycles is left, and
BUSY = 0 when none is. -/
def SentFor (cfg : Config) (z : Serializer) (events : List LineEvent) (d n : Nat) : Prop :=
  (∃ e c, n = e * d + c ∧ SendsAt cfg z events d e c) ∨ (n = events.length * d ∧ z.busy = false)

variable {cfg : Config} {z : Serializer} {events : List LineEvent} {d n e c : Nat}

theorem SendsAt.lt_length (h : SendsAt cfg z events d e c) : e < events.length :=
  (List.getElem?_eq_some_iff.mp h.lines).1

/-- The event being sent is the number of whole delays that have passed (R209). -/
theorem SendsAt.div_eq (h : SendsAt cfg z events d e c) : (e * d + c) / d = e := by
  have hc := h.waits
  rw [Nat.add_comm, Nat.add_mul_div_right c e (by omega), Nat.div_eq_of_lt hc, Nat.zero_add]

theorem SendsAt.cycle_lt (h : SendsAt cfg z events d e c) : e * d + c < events.length * d := by
  have hc := h.waits
  rw [← Nat.div_lt_iff_lt_mul (by omega), h.div_eq]
  exact h.lt_length

/-- A start is at the first cycle of the first event (R201). -/
theorem SendsAt.start {delay : BitVec 16} {kind : Kind} (hd : delay ≠ 0#16)
    (hprog : ∀ e, z.event cfg kind e = events[e]?) (hlen : events.length = kind.last + 1) :
    SendsAt cfg (z.start cfg delay kind) events delay.toNat 0 0 where
  program := hprog
  length := hlen
  delay := rfl
  busy := rfl
  index := rfl
  count := rfl
  waits := Nat.pos_of_ne_zero fun h0 => hd (BitVec.eq_of_toNat_eq h0)
  lines := by rw [Serializer.start_lines, ← hprog, event_zero, Option.getD_some]

/-- An advance keeps the program and the latched delay. -/
theorem Sends.advance (h : Sends cfg z events d) : Sends cfg (serAdvance cfg z) events d where
  program e := by
    rw [Serializer.event_congr (serAdvance_snap cfg z) (serAdvance_cb cfg z), serAdvance_kind, h.program]
  length := by rw [serAdvance_kind, h.length]
  delay := by rw [serAdvance_dl, h.delay]

/-- One cycle of a transaction: the event is held for one more cycle, or it was the last and BUSY falls, or the next one
begins (R202). -/
theorem SendsAt.advance (h : SendsAt cfg z events d e c) :
    SentFor cfg (serAdvance cfg z) events d (e * d + c + 1) := by
  have hsends := h.toSends.advance
  have hlen := h.length
  have hlt := h.lt_length
  have hcount := h.count
  by_cases hw : 1 < z.wcnt.toNat
  · left
    refine ⟨e, c + 1, rfl, ?_⟩
    have hdec : (z.wcnt - 1#16).toNat = z.wcnt.toNat - 1 := by bv_omega
    rw [serAdvance_of_one_lt_wcnt hw] at hsends ⊢
    exact { hsends with
      busy := h.busy
      index := h.index
      count := by simp only [hdec]; omega
      waits := by omega
      lines := h.lines }
  have hw : z.wcnt.toNat ≤ 1 := by omega
  have hnext : e * d + c + 1 = (e + 1) * d := by
    have hc := h.waits
    rw [Nat.add_mul]
    omega
  by_cases he : z.eidx.toNat = z.kind.last
  · right
    rw [serAdvance_of_eidx_eq_last hw he, hnext, hlen, ← he, h.index]
    exact ⟨rfl, rfl⟩
  · left
    refine ⟨e + 1, 0, hnext, ?_⟩
    have he : z.eidx.toNat < z.kind.last := by have := h.index; omega
    obtain ⟨ev, hev, hadv⟩ := serAdvance_of_eidx_lt_last (cfg := cfg) hw he
    rw [hadv] at hsends ⊢
    exact { hsends with
      busy := h.busy
      index := (toNat_eidx_succ he).trans (congrArg (· + 1) h.index)
      count := h.delay
      waits := Nat.zero_lt_of_lt h.waits
      lines := by rw [← h.index, ← h.program, hev] }

/-- A step without reset moves a transaction on by one cycle, whatever the host does in it, and the next step takes the
inputs that follow. -/
theorem step_sentFor {s : State} (h : SentFor s.cfg s.ser events d n) (hn : n < events.length * d)
    (hr : s.now.rst = false) :
    ∃ t, step s = .next t ∧ SentFor t.cfg t.ser events d (n + 1) ∧ ∀ j, t.inputAt j = s.inputAt (j + 1) := by
  refine ⟨_, step_of_not_rst hr, ?_, inputAt_of_advance (runCycle_env _ s)⟩
  obtain ⟨e, c, rfl, hat⟩ | ⟨hend, -⟩ := h
  · rw [runCycle_cfg, runCycle_ser_busy hat.busy]
    exact hat.advance
  · omega

theorem run_succ_of_step {s t : State} (h : step s = .next t) (k : Nat) :
    Host.Core.run core (k + 1) s = Host.Core.run core k t := by
  have hcore : core.step s = .next t := h
  simp only [Host.Core.run, hcore]

/-- `k` cycles without reset move a transaction on by `k` cycles. -/
theorem run_sentFor (k : Nat) {s : State} (h : SentFor s.cfg s.ser events d n) (hn : n + k ≤ events.length * d)
    (hr : ∀ j, j < k → (s.inputAt j).rst = false) :
    ∃ t : State, Host.Core.run core k s = .next t ∧ SentFor t.cfg t.ser events d (n + k) := by
  induction k generalizing s n with
  | zero => exact ⟨s, rfl, h⟩
  | succ k ih =>
    have hnow : s.now.rst = false := by rw [now_eq_inputAt]; exact hr 0 (Nat.succ_pos k)
    obtain ⟨t, hstep, ht, hinputs⟩ := step_sentFor h (by omega) hnow
    obtain ⟨u, hrun, hu⟩ := ih ht (by omega) fun j hj => hinputs j ▸ hr (j + 1) (Nat.succ_lt_succ hj)
    exact ⟨u, (run_succ_of_step hstep k).trans hrun, by rwa [Nat.add_right_comm] at hu⟩

/-- Bit 0 of STATUS is BUSY (R36). -/
theorem statusWord_getLsbD_zero (s : State) : s.statusWord.getLsbD 0 = s.ser.busy := by
  rw [State.statusWord, BitVec.getLsbD_setWidth, BitVec.getLsbD_append]
  simp

/-- An accepted WRFRAME or DISPCTRL is at the first cycle of the first event of its program (R199 to R201). -/
theorem exec_sendsAt {s u : State} {i : Instr} (hb : s.ser.busy = false) (hd : s.delay ≠ 0#16)
    (hu : exec i s = .next u)
    (hi : (i = .wrframe ∧ events = frameProgram s.cfg (toPhys s.m)) ∨
      ∃ on bri, i = .dispctrl on bri ∧ events = ctrlProgram (s.cfg.dispCtrl on bri)) :
    SendsAt u.cfg u.ser events s.delay.toNat 0 0 := by
  obtain ⟨rfl, rfl⟩ | ⟨on, bri, rfl, rfl⟩ := hi
  · obtain ⟨t, ht, hser, -, -, -, hown, -⟩ := exec_serialStart hb (commandOp_wrframe_idle hb)
    cases hu.symm.trans ht
    rw [hser, hown.cfg]
    exact .start hd (fun _ => rfl) (length_frameProgram _ _)
  · obtain ⟨t, ht, hser, -, -, -, hown, -⟩ := exec_serialStart hb (commandOp_dispctrl_idle on bri hb)
    cases hu.symm.trans ht
    rw [hser, hown.cfg]
    exact .start hd (fun _ => rfl) (length_ctrlProgram _)

end Transaction

/-- Settles O30: the start is at cycle 0 of the transaction, the run follows it to cycle `k`, and the place there gives
the event and BUSY. -/
theorem transactionTakesItsEventsTimesDelay : Obligations.TransactionTakesItsEventsTimesDelay := by
  intro s u i events k hb hd hu hi hk hr
  have hstart : SentFor u.cfg u.ser events s.delay.toNat 0 := .inl ⟨0, 0, by omega, exec_sendsAt hb hd hu hi⟩
  obtain ⟨t, hrun, ht⟩ := run_sentFor k hstart (by omega) hr
  rw [Nat.zero_add] at ht
  refine ⟨?frameLength, ?ctrlLength, t, hrun, ?place⟩
  case frameLength =>
    rintro rfl
    obtain ⟨-, rfl⟩ | ⟨_, _, hne, -⟩ := hi
    · exact length_frameProgram _ _
    · cases hne
  case ctrlLength =>
    intro hne
    obtain ⟨heq, -⟩ | ⟨_, _, -, rfl⟩ := hi
    · exact absurd heq hne
    · exact length_ctrlProgram _
  case place =>
    rw [statusWord_getLsbD_zero]
    obtain ⟨e, c, rfl, hat⟩ | ⟨rfl, hidle⟩ := ht
    · rw [hat.div_eq]
      exact ⟨hat.busy.trans (decide_eq_true hat.cycle_lt).symm, fun _ => ⟨hat.index, hat.lines⟩⟩
    · exact ⟨hidle.trans (decide_eq_false (lt_irrefl _)).symm, fun hlt => absurd hlt (lt_irrefl _)⟩

end Sys2Proof.Machine

/-! SUPPORT. The quadrature decoder (43_quadrature.md). What the decoder does depends on the configuration only through
the table, so with the default table it is the decoder of `Config.default`, whose entries are constants. -/

namespace Sys2Proof.Machine

section DecoderStep

/-! ## A step of the decoder -/

@[simp] theorem qDecode_next (cfg : Config) (q : QState) (i : BitVec 2) :
    (qDecode cfg q i).1 = (cfg.qEntry q i).next := rfl

@[simp] theorem qDecode_tick (cfg : Config) (q : QState) (i : BitVec 2) :
    (qDecode cfg q i).2 = Tag.tick (cfg.qEntry q i).tag := rfl

/-- Settles O32: both parts of the step are read off one entry, and `Tag.tick` gives a tick for each tag. -/
theorem decoderStepFollowsTheTable : Obligations.DecoderStepFollowsTheTable := by
  intro cfg q i
  rw [qDecode_tick]
  refine ⟨qDecode_next cfg q i, fun hcw => ?_, fun hccw => ?_, fun hnone => ?_⟩
  · rw [hcw, Tag.tick]
  · rw [hccw, Tag.tick]
  · rw [hnone, Tag.tick]

end DecoderStep

section DefaultTable

/-! ## The default table -/

variable {cfg : Config}

theorem qEntry_eq_default (h : cfg.qTable = defaultQTable) : cfg.qEntry = Config.default.qEntry := by
  funext q i
  rw [Config.qEntry, h]
  rfl

theorem qDecode_eq_default (h : cfg.qTable = defaultQTable) : qDecode cfg = qDecode Config.default := by
  funext q i
  rw [qDecode, qEntry_eq_default h]
  rfl

/-- Every step of a list is checked against the default table, entry by entry. -/
theorem default_next_of_mem {steps : List (QState × BitVec 2 × QState)}
    (hall : ∀ x ∈ steps, (Config.default.qEntry x.1 x.2.1).next = x.2.2) (q : QState) (i : BitVec 2) (q' : QState)
    (hmem : (q, i, q') ∈ steps) : (Config.default.qEntry q i).next = q' :=
  hall (q, i, q') hmem

/-- Each full path has its tag on its last step, and no other entry has one (R231). -/
theorem default_tag_iff (q : QState) (i : BitVec 2) :
    ((Config.default.qEntry q i).tag = .cw ↔ q = .cw3 ∧ i = 0b11#2) ∧
    ((Config.default.qEntry q i).tag = .ccw ↔ q = .ccw3 ∧ i = 0b11#2) := by
  cases q <;> revert i <;> decide

end DefaultTable

section DecoderStatements

/-! ## The statements on the default table -/

/-- Settles O33: the entries are those of `Config.default`. The clauses on the own level pair and on the tags go row by
row; the steps forward and back go through their lists. -/
theorem defaultTableIsBuiltAsStated : Obligations.DefaultTableIsBuiltAsStated := by
  intro cfg h
  rw [qEntry_eq_default h]
  refine ⟨?ownLevel, ?forward, ?back, ?illegal, default_tag_iff⟩
  case ownLevel =>
    intro q
    cases q <;> decide
  case forward => exact default_next_of_mem (by decide)
  case back => exact default_next_of_mem (by decide)
  case illegal => decide

/-- Settles O34: the decoder is that of `Config.default`, and each of the four sequences is run on it. -/
theorem oneTickPerDetent : Obligations.OneTickPerDetent := by
  intro cfg h
  rw [qDecode_eq_default h]
  refine ⟨?clockwise, ?counterClockwise, ?backFromFirst, ?backFromSecond⟩
  case clockwise => decide
  case counterClockwise => decide
  case backFromFirst => decide
  case backFromSecond => decide

end DecoderStatements

end Sys2Proof.Machine

/-! SUPPORT. The debounce filters (44_debounce.md). A filter's step turns on whether its window, the newest samples as
far as the depth reaches, stands uniformly against the level; and a step of the machine makes of a pin what that pin,
the cycle's inputs and the parameters say. -/

namespace Sys2Proof.Machine

section Window

/-! ## The window of a filter -/

/-- The window that a step of `p` with sample `x` looks at holds nothing but `v`. -/
def Pin.WindowIs (p : Pin) (x v : Bool) : Prop :=
  ∀ j < p.n.toNat, (pushSample p.hist x).getLsbD j = v

theorem and_mask64_getLsbD (h : BitVec 64) (n : Nat) {j : Nat} (hj : j < 64) :
    (h &&& mask64 n).getLsbD j = (h.getLsbD j && decide (j < n)) := by
  rw [BitVec.getLsbD_and, mask64_getLsbD, decide_eq_true hj, Bool.true_and]

theorem and_mask64_eq_mask64_iff (h : BitVec 64) {n : Nat} (hn : n ≤ 64) :
    h &&& mask64 n = mask64 n ↔ ∀ j < n, h.getLsbD j = true := by
  constructor
  · intro heq j hj
    have hbit := and_mask64_getLsbD h n (hj.trans_le hn)
    rw [heq, mask64_getLsbD] at hbit
    simpa [hj, hj.trans_le hn] using hbit.symm
  · intro hall
    refine BitVec.eq_of_getLsbD_eq fun j hj => ?_
    rw [and_mask64_getLsbD h n hj, mask64_getLsbD, decide_eq_true hj]
    by_cases hjn : j < n
    · rw [hall j hjn]
    · simp [hjn]

theorem and_mask64_eq_zero_iff (h : BitVec 64) {n : Nat} (hn : n ≤ 64) :
    h &&& mask64 n = 0#64 ↔ ∀ j < n, h.getLsbD j = false := by
  constructor
  · intro heq j hj
    have hbit := and_mask64_getLsbD h n (hj.trans_le hn)
    simpa [heq, hj] using hbit.symm
  · intro hall
    refine BitVec.eq_of_getLsbD_eq fun j hj => ?_
    rw [and_mask64_getLsbD h n hj, BitVec.getLsbD_zero]
    by_cases hjn : j < n
    · rw [hall j hjn, Bool.false_and]
    · simp [hjn]

variable {p : Pin} {x : Bool}

/-- A window uniformly against the level turns it (R252). -/
theorem debounce_of_windowIs_not_lvl (hn : p.n.toNat ≤ 64) (hw : p.WindowIs x (!p.lvl)) :
    debounce p x =
      { pin := { p with hist := pushSample p.hist x, lvl := !p.lvl }, edge := if p.lvl then .fall else .rise } := by
  obtain ⟨-, hl, heq⟩ | ⟨-, hl, heq⟩ | ⟨hrise, hfall, -⟩ := debounce_cases p x
  · rw [heq, hl]; rfl
  · rw [heq, hl]; rfl
  · cases hl : p.lvl <;> rw [hl] at hw
    case false => exact absurd ⟨(and_mask64_eq_mask64_iff _ hn).mpr hw, hl⟩ hrise
    case true => exact absurd ⟨(and_mask64_eq_zero_iff _ hn).mpr hw, hl⟩ hfall

/-- Any other window leaves the level (R252). -/
theorem debounce_of_not_windowIs_not_lvl (hn : p.n.toNat ≤ 64) (hw : ¬ p.WindowIs x (!p.lvl)) :
    debounce p x = { pin := { p with hist := pushSample p.hist x }, edge := .none } := by
  obtain ⟨hmask, hl, -⟩ | ⟨hmask, hl, -⟩ | ⟨-, -, heq⟩ := debounce_cases p x
  · exact absurd (by rw [hl]; exact (and_mask64_eq_mask64_iff _ hn).mp hmask) hw
  · exact absurd (by rw [hl]; exact (and_mask64_eq_zero_iff _ hn).mp hmask) hw
  · exact heq

/-- After a step whose window holds nothing but `v`, the level is `v`. -/
theorem debounce_lvl_of_windowIs {v : Bool} (h1 : 1 ≤ p.n.toNat) (hn : p.n.toNat ≤ 64) (hw : p.WindowIs x v) :
    (debounce p x).pin.lvl = v := by
  by_cases hv : v = p.lvl
  · subst hv
    have hmixed : ¬ p.WindowIs x (!p.lvl) := fun hc => Bool.self_ne_not p.lvl ((hw 0 h1).symm.trans (hc 0 h1))
    rw [debounce_of_not_windowIs_not_lvl hn hmixed]
  · have hv : v = !p.lvl := Bool.eq_not_of_ne hv
    rw [debounce_of_windowIs_not_lvl hn (hv ▸ hw), hv]

end Window

section Settling

/-! ## Filter steps that all take one sample -/

theorem iterate_debounce_n (p : Pin) (x : Bool) (k : Nat) : ((fun q => (debounce q x).pin)^[k] p).n = p.n := by
  induction k with
  | zero => rfl
  | succ k ih => rw [Function.iterate_succ_apply', debounce_n, ih]

/-- A push of `x` on top of `k` samples `x` gives `k + 1` of them. -/
theorem pushSample_getLsbD_of_forall_lt {hist : BitVec 64} {x : Bool} {k : Nat}
    (h : ∀ j < k, j < 64 → hist.getLsbD j = x) : ∀ j < k + 1, j < 64 → (pushSample hist x).getLsbD j = x := by
  intro j hj hj64
  rw [pushSample_getLsbD, decide_eq_true hj64, Bool.true_and]
  cases j with
  | zero => rfl
  | succ i => exact h i (Nat.lt_of_succ_lt_succ hj) (Nat.lt_of_succ_lt hj64)

theorem iterate_debounce_hist_getLsbD (p : Pin) (x : Bool) (k : Nat) :
    ∀ j < k, j < 64 → ((fun q => (debounce q x).pin)^[k] p).hist.getLsbD j = x := by
  induction k with
  | zero => exact fun j hj => absurd hj (Nat.not_lt_zero j)
  | succ k ih =>
    rw [Function.iterate_succ_apply', debounce_hist]
    exact pushSample_getLsbD_of_forall_lt ih

end Settling

section PinStep

/-! ## What a clock edge makes of one pin -/

theorem cycleOp_tick_iff (s : State) :
    (cycleOp s).tick = true ↔
      s.now.busWe = true ∧ s.now.busAddr = 0#3 ∧ decodeCommand s.now.busWdata = .poll := by
  refine ⟨(cycleOp_access s).poll_of_tick, fun ⟨hwe, ha, hc⟩ => ?_⟩
  rw [cycleOp_of_fetch (fetch_command hwe ha), instrOp_toInstr, HostOp.withRead_tick, commandOp_tick, hc]
  rfl

theorem cycleOp_pins (s : State) :
    (cycleOp s).wr.pins =
      if s.now.busWe = true ∧ s.now.busAddr = 4#3 then s.pins.withConfig s.now.busWdata else s.pins := by
  split
  case isTrue h =>
    obtain ⟨hwe, ha⟩ := h
    rw [cycleOp_of_fetch (fetch_write hwe (by rw [ha]; decide)), ha]
    exact congrArg State.pins (HostOp.withRead_wr _ _ _)
  case isFalse h =>
    exact (cycleOp_access s).pins_cases.resolve_right fun ⟨hwe, ha, _⟩ => h ⟨hwe, ha⟩

theorem pollCycle_pins_get (tick : Bool) (cfg : Config) (ps : Pins) (q : QState) (p : PinId) :
    (pollCycle tick cfg ps q).pins.get p =
      if tick then (debounce (ps.get p) (ps.get p).sync2).pin else ps.get p := by
  cases tick with
  | false => rfl
  | true => exact poll_pins_get cfg ps q p

variable {s s' : State} {p : PinId}

/-- Each depth field of CONFIG is its own pin's (R38, R302). -/
theorem withConfig_get_congr {ps ps' : Pins} (w : Word) (h : ps.get p = ps'.get p) :
    (ps.withConfig w).get p = (ps'.withConfig w).get p := by
  cases p with
  | a => exact congrArg (Pin.withDepth · (w.extractLsb' 0 7)) h
  | b => exact congrArg (Pin.withDepth · (w.extractLsb' 8 7)) h
  | sw => exact congrArg (Pin.withDepth · (w.extractLsb' 16 7)) h

theorem cycleOp_tick_congr (hnow : s.now = s'.now) : (cycleOp s).tick = (cycleOp s').tick := by
  rw [Bool.eq_iff_iff, cycleOp_tick_iff, cycleOp_tick_iff, hnow]

theorem cycleOp_pins_get_congr (hnow : s.now = s'.now) (hp : s.pins.get p = s'.pins.get p) :
    (cycleOp s).wr.pins.get p = (cycleOp s').wr.pins.get p := by
  rw [cycleOp_pins, cycleOp_pins, hnow]
  split
  · exact withConfig_get_congr _ hp
  · exact hp

theorem cycle_pins_get_congr (hnow : s.now = s'.now) (hp : s.pins.get p = s'.pins.get p) :
    (runCycle (cycleOp s) s).pins.get p = (runCycle (cycleOp s') s').pins.get p := by
  rw [runCycle_pins_get, runCycle_pins_get, pollCycle_pins_get, pollCycle_pins_get, cycleOp_tick_congr hnow,
    cycleOp_pins_get_congr hnow hp, hnow, hp]

end PinStep

section FilterStatements

/-! ## The statements on the filters -/

/-- Settles O37: the window is the pushed history as far as the depth reaches, and a sample equal to the level keeps it
from being uniform against the level. -/
theorem filterConfirmsOnlyAUniformWindow : Obligations.FilterConfirmsOnlyAUniformWindow := by
  intro p x _ hn h
  have hpush : ∀ j, j < 64 → (pushSample p.hist x).getLsbD j = h j := fun j hj => by
    rw [pushSample_getLsbD, decide_eq_true hj, Bool.true_and]
  have hwindow : ∀ v : Bool, p.WindowIs x v ↔ ∀ j, j < p.n.toNat → h j = v := fun v =>
    forall₂_congr fun j hj => by rw [hpush j (hj.trans_le hn)]
  refine ⟨fun j hj => ?history, fun hw hl => ?rise, fun hw hl => ?fall, fun ⟨j, hj, hlvl⟩ => ?keep,
    debounce_n p x, debounce_sync1 p x, debounce_sync2 p x⟩
  case history => rw [debounce_hist, hpush j hj]
  case rise =>
    rw [debounce_of_windowIs_not_lvl hn ((hwindow _).mpr (by rw [hl]; exact hw)), hl]
    exact ⟨rfl, rfl⟩
  case fall =>
    rw [debounce_of_windowIs_not_lvl hn ((hwindow _).mpr (by rw [hl]; exact hw)), hl]
    exact ⟨rfl, rfl⟩
  case keep =>
    have hmixed : ¬ p.WindowIs x (!p.lvl) := fun hw =>
      Bool.self_ne_not p.lvl (hlvl.symm.trans ((hwindow _).mp hw j hj))
    rw [debounce_of_not_windowIs_not_lvl hn hmixed]
    exact ⟨rfl, rfl⟩

/-- Settles O39: after all but the last step, the window of the last one holds nothing but its own sample. -/
theorem levelSettlesWithinTheDepth : Obligations.LevelSettlesWithinTheDepth := by
  intro p x k h1 hn hk
  obtain ⟨m, rfl⟩ : ∃ m, k = m + 1 := ⟨k - 1, by omega⟩
  rw [Function.iterate_succ_apply']
  have hdepth := iterate_debounce_n p x m
  apply debounce_lvl_of_windowIs
  · rw [hdepth]; exact h1
  · rw [hdepth]; exact hn
  · intro j hj
    rw [hdepth] at hj
    exact pushSample_getLsbD_of_forall_lt (iterate_debounce_hist_getLsbD p x m) j (hj.trans_le hk) (hj.trans_le hn)

/-- Settles O40: a reset takes a pin from the parameters, and a cycle takes it from that pin and the inputs. -/
theorem filtersAreIndependent : Obligations.FiltersAreIndependent := by
  intro s t s' t' p ht ht' hnow hcfg hp
  obtain ⟨hr, rfl⟩ | ⟨hr, rfl⟩ := step_reset_or_cycle ht
  · rw [step_of_rst (hnow ▸ hr)] at ht'
    injection ht' with ht'
    rw [← ht', resetOf_pins_get, resetOf_pins_get, hcfg]
  · rw [step_of_not_rst (hnow ▸ hr)] at ht'
    injection ht' with ht'
    rw [← ht', cycle_pins_get_congr hnow hp]

/-- Settles O38: each of the three outcomes of a step shows its edge beside what it makes of the level. -/
theorem edgeExactlyAtALevelChange : Obligations.EdgeExactlyAtALevelChange := by
  intro p x
  obtain ⟨-, hl, heq⟩ | ⟨-, hl, heq⟩ | ⟨-, -, heq⟩ := debounce_cases p x
  · simp [heq, hl]
  · simp [heq, hl]
  · cases hl : p.lvl <;> simp [heq, hl]

end FilterStatements

end Sys2Proof.Machine

/-! SUPPORT. The event aggregator (45_aggregator.md). POLL and EVCLR write nothing of their own, so one frame lemma
serves both; and an event that is gone after a cycle was cleared there, because a tick is never encoded as 00. -/

namespace Sys2Proof.Machine

section PollTick

/-! ## The poll tick and the merge -/

/-- What a poll tick gives as QST and tick: the decoder's step on an edge of A or B, and no step otherwise (R273). -/
theorem poll_decoder (cfg : Config) (ps : Pins) (q : QState) :
    ((poll cfg ps q).qst, (poll cfg ps q).r) =
      if (debounce ps.a ps.a.sync2).edge ≠ .none ∨ (debounce ps.b ps.b.sync2).edge ≠ .none then
        qDecode cfg q (phaseInput (debounce ps.a ps.a.sync2).pin.lvl (debounce ps.b ps.b.sync2).pin.lvl)
      else (q, 0) := rfl

/-- R230. -/
theorem phaseInput_toNat (a b : Bool) : (phaseInput a b).toNat = 2 * a.toNat + b.toNat := by
  cases a <;> cases b <;> rfl

@[simp] theorem mergeDelta_one (clrD : Bool) (d : BitVec 2) : mergeDelta 1 clrD d = 0b01#2 := rfl

@[simp] theorem mergeDelta_neg_one (clrD : Bool) (d : BitVec 2) : mergeDelta (-1) clrD d = 0b11#2 := rfl

theorem mergeDelta_zero (clrD : Bool) (d : BitVec 2) : mergeDelta 0 clrD d = if clrD then 0#2 else d := rfl

theorem mergePress_false (clrP press : Bool) : mergePress false clrP press = if clrP then false else press := rfl

/-- A pending DELTA goes to 00 only by a clear (R275). -/
theorem clrD_of_mergeDelta_eq_zero {r : Int} {clrD : Bool} {d : BitVec 2} (hr : r = 0 ∨ r = -1 ∨ r = 1)
    (hd : d ≠ 0#2) (h : mergeDelta r clrD d = 0#2) : clrD = true := by
  obtain rfl | rfl | rfl := hr
  · cases clrD with
    | true => rfl
    | false => exact absurd h hd
  · rw [mergeDelta_neg_one] at h
    exact absurd h (by decide)
  · rw [mergeDelta_one] at h
    exact absurd h (by decide)

/-- A pending PRESS goes to 0 only by a clear (R275). -/
theorem clrP_of_mergePress_eq_false {pressSet clrP : Bool} (h : mergePress pressSet clrP true = false) :
    clrP = true := by
  cases clrP with
  | true => rfl
  | false => cases pressSet <;> exact absurd h (by decide)

end PollTick

section ClearRequests

/-! ## Who requests a clear -/

variable {s : State} {op : HostOp}

/-- A read that goes along with a write adds a clear only at EVENTS_RC (R295, R305). -/
theorem HostOp.withRead_clear_cases (op : HostOp) (a : BitVec 3) (s : State) :
    (s.now.busRe = true ∧ a = 3#3) ∨
    ((op.withRead a s).clrD = op.clrD ∧ (op.withRead a s).clrP = op.clrP) := by
  by_cases h : s.now.busRe = true ∧ a = 3#3
  · exact .inl h
  · right
    have hread : (s.now.busRe && decide (a = 3#3)) = false := by simpa using h
    rw [HostOp.withRead_clrD, HostOp.withRead_clrP, hread, Bool.or_false, Bool.or_false]
    exact ⟨rfl, rfl⟩

/-- Of the commands only EVCLR requests a clear, of what its operands name (R277). -/
theorem commandOp_clear_cases (c : Command) (s : State) :
    ((commandOp c s).clrD = false ∧ (commandOp c s).clrP = false) ∨
    c = .evclr (commandOp c s).clrD (commandOp c s).clrP := by
  cases c with
  | evclr cd cp => exact .inr rfl
  | _ => exact .inl ⟨rfl, rfl⟩

/-- Everything a host access can ask of the events: the clear of both by a read of EVENTS_RC, no clear, or the clear
that an EVCLR's operands name (R277, R295). -/
theorem HostAccess.clear_cases (h : HostAccess s op) :
    (s.now.busRe = true ∧ s.now.busAddr = 3#3) ∨ (op.clrD = false ∧ op.clrP = false) ∨
    (s.now.busWe = true ∧ s.now.busAddr = 0#3 ∧ decodeCommand s.now.busWdata = .evclr op.clrD op.clrP) := by
  cases h with
  | none => exact .inr (.inl ⟨rfl, rfl⟩)
  | read hwe hre =>
    by_cases ha : s.now.busAddr = 3#3
    · exact .inl ⟨hre, ha⟩
    · exact .inr (.inl ⟨decide_eq_false ha, decide_eq_false ha⟩)
  | command c hwe ha hc =>
    obtain ⟨-, h0⟩ | ⟨hD, hP⟩ := (commandOp c s).withRead_clear_cases 0#3 s
    · exact absurd h0 (by decide)
    · rw [hD, hP]
      exact .inr ((commandOp_clear_cases c s).imp_right fun he => ⟨hwe, ha, hc.trans he⟩)
  | status hwe ha | config hwe ha | delay hwe ha | ignored a hwe ha =>
    exact (HostOp.withRead_clear_cases _ _ s).imp (fun ⟨hre, h3⟩ => ⟨hre, ha.trans h3⟩) .inl

/-- Where a host access requests a clear, it is a read of EVENTS_RC or the EVCLR whose operands are the requests. -/
theorem HostAccess.read_or_evclr_of_clear (h : HostAccess s op) (hclr : op.clrD = true ∨ op.clrP = true) :
    (s.now.busRe = true ∧ s.now.busAddr = 3#3) ∨
    (s.now.busWe = true ∧ s.now.busAddr = 0#3 ∧ decodeCommand s.now.busWdata = .evclr op.clrD op.clrP) := by
  obtain hread | ⟨hD, hP⟩ | hevclr := h.clear_cases
  · exact .inl hread
  · simp [hD, hP] at hclr
  · exact .inr hevclr

end ClearRequests

section EventCommands

/-! ## The cycle of a command that writes nothing -/

/-- A command without a write of its own answers a state in which all that the host writes is kept, and the input side
is what the cycle's own parts make of its requests (R276, R277). -/
theorem exec_of_no_write {c : Command} {s : State} (h : (commandOp c s).wr = s) :
    ∃ t, exec c.toInstr s = .next t ∧
      OwnParts (s.now.pollTick || (commandOp c s).tick) (commandOp c s).clrD (commandOp c s).clrP s t ∧
      HostKept s t ∧ t.env = s.env.advance 0#32 :=
  ⟨_, exec_toInstr c s, commandCycle_ownParts c s,
    runCycle_hostKept ((HostOp.withRead_wr _ _ _).trans h), commandCycle_env c s⟩

end EventCommands

section AggregatorStatements

/-! ## The statements on the event aggregator -/

/-- Settles O45: DELTA and PRESS go away only by a clear request, and a host access makes one only as R278 says. -/
theorem noEventClearsItself : Obligations.NoEventClearsItself := by
  intro s t h
  obtain ⟨hr, -⟩ | ⟨-, rfl⟩ := step_reset_or_cycle h
  · exact ⟨fun _ _ => .inl hr, fun _ _ => .inl hr⟩
  have hcause := (cycleOp_access s).read_or_evclr_of_clear
  constructor
  · intro hold hnew
    rw [runCycle_delta] at hnew
    have hclr := clrD_of_mergeDelta_eq_zero (pollCycle_r_cases _ _ _ _) hold hnew
    exact .inr ((hcause (.inl hclr)).imp_right fun ⟨hwe, ha, hc⟩ => ⟨_, hwe, ha, hclr ▸ hc⟩)
  · intro hold hnew
    rw [runCycle_press, hold] at hnew
    have hclr := clrP_of_mergePress_eq_false hnew
    exact .inr ((hcause (.inr hclr)).imp_right fun ⟨hwe, ha, hc⟩ => ⟨_, hwe, ha, hclr ▸ hc⟩)

/-- Settles O41: POLL requests a tick, and the cycle makes one tick of that request and `poll_tick` together. -/
theorem pollMakesOnePollTick : Obligations.PollMakesOnePollTick := by
  refine ⟨decodeCommand_encodeCommand (c := .poll) rfl, fun s => ?_⟩
  obtain ⟨t, ht, hown, hframe⟩ := exec_of_no_write (c := .poll) (s := s) rfl
  have htick : (s.now.pollTick || (commandOp .poll s).tick) = true := Bool.or_true _
  exact ⟨t, ht, htick ▸ hown, hframe⟩

/-- Settles O42: QST and the tick are `poll_decoder`'s in its two cases; the pins and the press are the filters'. -/
theorem pollTickFollowsItsProcedure : Obligations.PollTickFollowsItsProcedure := by
  intro cfg ps q fa fb fw
  have hdec := poll_decoder cfg ps q
  refine ⟨rfl, fun ha hb => ?noEdge, fun hedge => ?edge, decide_eq_true_iff, phaseInput_toNat⟩
  case noEdge =>
    have hnone : ¬ (fa.edge ≠ .none ∨ fb.edge ≠ .none) := not_or.mpr ⟨not_not.mpr ha, not_not.mpr hb⟩
    exact Prod.ext_iff.mp (hdec.trans (if_neg hnone))
  case edge => exact Prod.ext_iff.mp (hdec.trans (if_pos hedge))

/-- Settles O43: the merge of each tick and of each press request. -/
theorem newEventWinsOverClear : Obligations.NewEventWinsOverClear := fun clr delta press =>
  ⟨mergeDelta_one clr delta, mergeDelta_neg_one clr delta, mergeDelta_zero clr delta, mergePress_set clr press,
    mergePress_false clr press⟩

/-- Settles O44: EVCLR's requests are its operands, and without a poll tick the merge does what they ask. -/
theorem evclrClearsWhatItNames : Obligations.EvclrClearsWhatItNames := by
  refine ⟨fun cd cp => decodeCommand_encodeCommand (c := .evclr cd cp) rfl, fun s cd cp => ?_⟩
  obtain ⟨t, ht, hown, hkept, henv⟩ := exec_of_no_write (c := .evclr cd cp) (s := s) rfl
  have htick : (s.now.pollTick || (commandOp (.evclr cd cp) s).tick) = s.now.pollTick := Bool.or_false _
  rw [htick] at hown
  refine ⟨t, ht, hown, hkept, fun hpoll => ?_, henv⟩
  rw [hpoll] at hown
  exact ⟨hown.delta, hown.press⟩

end AggregatorStatements

end Sys2Proof.Machine

/-! SUPPORT. The host bus (46_host_bus.md). A read asks its cycle for the read data alone, and at EVENTS_RC for the
clear of both events too; a write asks for what `writeOp` says, with a read of the same address along with it where
`bus_re = 1`. One frame lemma serves all reads and one all register writes; and a cycle that reads and writes is
compared with the same cycle without its read by way of the write's own operation (R305). -/

namespace Sys2Proof.Machine

section ReadWords

/-! ## The words that a read returns -/

theorem getLsbD_setWidth_of_le {n m j : Nat} (x : BitVec n) (h : n ≤ j) : (x.setWidth m).getLsbD j = false := by
  rw [BitVec.getLsbD_setWidth, BitVec.getLsbD_of_ge x j h, Bool.and_false]

/-- R36. -/
theorem statusWord_bits (s : State) :
    s.statusWord.getLsbD 0 = s.ser.busy ∧ s.statusWord.getLsbD 1 = s.ovr ∧ s.statusWord.getLsbD 2 = s.cmderr ∧
    s.statusWord.getLsbD 3 = (decide (s.delta ≠ 0#2) || s.press) ∧
    ∀ j, 4 ≤ j → s.statusWord.getLsbD j = false := by
  refine ⟨?busy, ?ovr, ?cmderr, ?pend, fun j => getLsbD_setWidth_of_le _⟩
  all_goals
    simp only [State.statusWord, State.pend, BitVec.getLsbD_setWidth, BitVec.getLsbD_append]
    simp [bne, beq_eq_decide]

/-- R37. -/
theorem eventsWord_fields (s : State) :
    s.eventsWord.extractLsb' 0 2 = s.delta ∧ s.eventsWord.getLsbD 2 = s.press ∧ s.eventsWord.getLsbD 3 = false ∧
    s.eventsWord.extractLsb' 4 3 = s.qst.code ∧ s.eventsWord.getLsbD 7 = false ∧
    s.eventsWord.getLsbD 8 = s.pins.a.lvl ∧ s.eventsWord.getLsbD 9 = s.pins.b.lvl ∧
    s.eventsWord.getLsbD 10 = s.pins.sw.lvl ∧ ∀ j, 11 ≤ j → s.eventsWord.getLsbD j = false := by
  refine ⟨?delta, ?press, ?bit3, ?qst, ?bit7, ?a, ?b, ?sw, fun j => getLsbD_setWidth_of_le _⟩
  case delta =>
    rw [State.eventsWord, BitVec.extractLsb'_setWidth_of_le (by decide), BitVec.extractLsb'_append_eq_right]
  case qst =>
    rw [State.eventsWord, BitVec.extractLsb'_setWidth_of_le (by decide)]
    iterate 3 rw [BitVec.extractLsb'_append_eq_of_le (by decide)]
    exact BitVec.extractLsb'_append_eq_right
  all_goals
    simp only [State.eventsWord, BitVec.getLsbD_setWidth, BitVec.getLsbD_append]
    simp

/-- R38. -/
theorem configWord_fields (s : State) :
    s.configWord.extractLsb' 0 7 = s.pins.a.n ∧ s.configWord.getLsbD 7 = false ∧
    s.configWord.extractLsb' 8 7 = s.pins.b.n ∧ s.configWord.getLsbD 15 = false ∧
    s.configWord.extractLsb' 16 7 = s.pins.sw.n ∧ ∀ j, 23 ≤ j → s.configWord.getLsbD j = false := by
  refine ⟨?a, ?bit7, ?b, ?bit15, ?sw, fun j => getLsbD_setWidth_of_le _⟩
  case a =>
    rw [State.configWord, BitVec.extractLsb'_setWidth_of_le (by decide), BitVec.extractLsb'_append_eq_right]
  case b =>
    rw [State.configWord, BitVec.extractLsb'_setWidth_of_le (by decide)]
    iterate 2 rw [BitVec.extractLsb'_append_eq_of_le (by decide)]
    exact BitVec.extractLsb'_append_eq_right
  case sw =>
    rw [State.configWord, BitVec.extractLsb'_setWidth_of_le (by decide)]
    iterate 3 rw [BitVec.extractLsb'_append_eq_of_le (by decide)]
    exact BitVec.extractLsb'_append_eq_left
  all_goals
    simp only [State.configWord, BitVec.getLsbD_setWidth, BitVec.getLsbD_append]
    simp

/-- R39. -/
theorem delayWord_fields (s : State) :
    s.delayWord.extractLsb' 0 16 = s.delay ∧ ∀ j, 16 ≤ j → s.delayWord.getLsbD j = false := by
  refine ⟨?_, fun j => getLsbD_setWidth_of_le _⟩
  rw [State.delayWord, BitVec.extractLsb'_setWidth_of_le (by decide), BitVec.extractLsb'_eq_self]

@[simp] theorem readReg_reserved (s : State) (x : Bool) : readReg s (0b11#2 ++ BitVec.ofBool x) = 0#32 := by
  cases x <;> rfl

end ReadWords

section Reads

/-! ## The cycle of a read -/

/-- A read answers a state in which all that the host writes is kept; its data is that of the pre-edge state, and only
at EVENTS_RC does it request the clear of the events (R291 to R298). -/
theorem exec_read (a : BitVec 3) (s : State) :
    ∃ t, exec (decodeOperation (0#1 ++ a) 0#32) s = .next t ∧ t.env = s.env.advance (readReg s a) ∧ HostKept s t ∧
      OwnParts s.now.pollTick (decide (a = 3#3)) (decide (a = 3#3)) s t := by
  refine ⟨runCycle (readOp a s) s, ?_, rfl, runCycle_hostKept rfl, ?_⟩
  · rw [exec_eq_runCycle, instrOp_decodeOperation_read]
  · simpa using runCycle_ownParts (readOp a s) s

end Reads

section Writes

/-! ## What a write asks of its cycle -/

/-- The pre-edge state with a register write to address `a` made; a write to any other address writes nothing (R300 to
R304). -/
def registerWrites (a : BitVec 3) (w : Word) (s : State) : State :=
  match a.toNat with
  | 1 => acknowledge .cmdErr (w.getLsbD 2) (acknowledge .overrun (w.getLsbD 1) s)
  | 4 => { s with pins := s.pins.withConfig w }
  | 5 => { s with delay := warlDelay s.delay (w.extractLsb' 0 16) }
  | _ => s

/-- What a write to address `a` asks of its cycle, without the read that may go along with it: at CMD what the word's
command asks (R299), and elsewhere its register write alone. -/
def writeOp (a : BitVec 3) (w : Word) (s : State) : HostOp :=
  if a = 0#3 then commandOp (decodeCommand w) s else { wr := registerWrites a w s }

theorem writeOp_of_ne_cmd {a : BitVec 3} (ha : a ≠ 0#3) (w : Word) (s : State) :
    writeOp a w s = { wr := registerWrites a w s } := if_neg ha

theorem instrOp_decodeOperation_write (a : BitVec 3) (w : Word) (s : State) :
    instrOp (decodeOperation (1#1 ++ a) w) s = (writeOp a w s).withRead a s := by
  rcases wordAddr_cases a with rfl | rfl | rfl | rfl | rfl | rfl | rfl | rfl <;> rfl

theorem cycleOp_write {s : State} (hwe : s.now.busWe = true) :
    cycleOp s = (writeOp s.now.busAddr s.now.busWdata s).withRead s.now.busAddr s := by
  by_cases ha : s.now.busAddr = 0#3
  · rw [cycleOp_of_fetch (fetch_command hwe ha), instrOp_toInstr, ha]
    rfl
  · rw [cycleOp_of_fetch (fetch_write hwe ha), instrOp_decodeOperation_write]

@[simp] theorem registerWrites_m (a : BitVec 3) (w : Word) (s : State) : (registerWrites a w s).m = s.m := by
  unfold registerWrites; split <;> rfl

@[simp] theorem registerWrites_ser (a : BitVec 3) (w : Word) (s : State) : (registerWrites a w s).ser = s.ser := by
  unfold registerWrites; split <;> rfl

/-- R300: a sticky bit after a write of `one` to it. -/
theorem acknowledged_eq_ite (bit one : Bool) : (bit && !one) = if one then false else bit := by
  cases one <;> simp

/-- A transaction in progress keeps its latched delay whatever its serializer does by itself (R202, R303). -/
theorem SerGoesOn.dl {s t : State} (h : SerGoesOn s t) : t.ser.dl = s.ser.dl := by
  rw [show t.ser = serCycle s.cfg s.ser from h, serCycle]
  split
  · exact serAdvance_dl _ _
  · rfl

/-- A register write answers a state in which the host's registers are as it writes them and the matrix and serializer
are left alone; the read that goes along with it in a cycle with `bus_re = 1` shows its data, and at EVENTS_RC requests
the clear of the events (R300 to R305). -/
theorem exec_registerWrite {a : BitVec 3} (ha : a ≠ 0#3) (w : Word) (s : State) :
    ∃ t, exec (decodeOperation (1#1 ++ a) w) s = .next t ∧ MatrixKept s t ∧ SerGoesOn s t ∧
      t.delay = (registerWrites a w s).delay ∧
      (∀ p : PinId, (t.pins.get p).n = ((registerWrites a w s).pins.get p).n) ∧
      t.ovr = (registerWrites a w s).ovr ∧ t.cmderr = (registerWrites a w s).cmderr ∧
      OwnParts s.now.pollTick (decide (a = 3#3) && s.now.busRe) (decide (a = 3#3) && s.now.busRe) s t ∧
      t.env = s.env.advance (if s.now.busRe then readReg s a else 0#32) := by
  have hexec := exec_eq_runCycle (decodeOperation (1#1 ++ a) w) s
  rw [instrOp_decodeOperation_write, writeOp_of_ne_cmd ha] at hexec
  refine ⟨_, hexec, fun r c => ?matrix, runCycle_serGoesOn ?ser, ?delay, fun p => ?depth, ?ovr, ?cmderr, ?own, ?env⟩
  case own => simpa [Bool.and_comm] using runCycle_ownParts (HostOp.withRead { wr := registerWrites a w s } a s) s
  all_goals simp

/-- A write that writes no register leaves alone all that the host writes (R301, R304). -/
theorem exec_ignoredWrite {a : BitVec 3} (ha : a ≠ 0#3) {w : Word} {s : State} (hw : registerWrites a w s = s) :
    ∃ t, exec (decodeOperation (1#1 ++ a) w) s = .next t ∧ HostKept s t ∧
      OwnParts s.now.pollTick (decide (a = 3#3) && s.now.busRe) (decide (a = 3#3) && s.now.busRe) s t ∧
      t.env = s.env.advance (if s.now.busRe then readReg s a else 0#32) := by
  obtain ⟨t, ht, hm, hser, hdelay, hdepth, hovr, hcmderr, hown, henv⟩ := exec_registerWrite ha w s
  rw [hw] at hdelay hdepth hovr hcmderr
  exact ⟨t, ht, ⟨hm, hser, ⟨hdelay, hdepth⟩, ⟨hovr, hcmderr⟩⟩, hown, henv⟩

end Writes

section ReadBesideWrite

/-! ## A cycle that reads and writes, and the same cycle without its read -/

theorem HostOp.withRead_of_busRe {s : State} (h : s.now.busRe = true) (op : HostOp) (a : BitVec 3) :
    op.withRead a s =
      { op with
        rdata := readReg s a
        clrD := op.clrD || decide (a = 3#3)
        clrP := op.clrP || decide (a = 3#3) } := by
  rw [HostOp.withRead, if_pos h]; rfl

theorem HostOp.withRead_of_not_busRe {s : State} (h : s.now.busRe = false) (op : HostOp) (a : BitVec 3) :
    op.withRead a s = op := by
  rw [HostOp.withRead, h]; rfl

/-- What a write asks of its cycle does not depend on the outside world. -/
theorem writeOp_withEnv (a : BitVec 3) (w : Word) (s : State) (e : Env) :
    writeOp a w { s with env := e } =
      { writeOp a w s with wr := { (writeOp a w s).wr with env := e } } := by
  have hcommand : ∀ c : Command, commandOp c { s with env := e } =
      { commandOp c s with wr := { (commandOp c s).wr with env := e } } := by
    intro c
    cases c with
    | wrframe => simp only [commandOp, wrframeWrites]; split <;> rfl
    | dispctrl on bri => simp only [commandOp, dispctrlWrites]; split <;> rfl
    | _ => rfl
  unfold writeOp registerWrites
  split
  · exact hcommand _
  · split <;> rfl

/-- A cycle takes from the outside world the poll tick and the pin levels (R47), and nothing else but what the host
asks. -/
theorem runCycle_withEnv (op : HostOp) {s : State} {e : Env}
    (htick : (State.now { s with env := e }).pollTick = s.now.pollTick)
    (hpin : ∀ p, (State.now { s with env := e }).pin p = s.now.pin p) :
    runCycle { op with wr := { op.wr with env := e } } { s with env := e } =
      { runCycle op s with env := e.advance op.rdata } := by
  have ha : (State.now { s with env := e }).encA = s.now.encA := hpin .a
  have hb : (State.now { s with env := e }).encB = s.now.encB := hpin .b
  have hsw : (State.now { s with env := e }).encSw = s.now.encSw := hpin .sw
  simp only [runCycle, htick, ha, hb, hsw]

/-- `OwnParts` says nothing of the outside world after the cycle. -/
theorem OwnParts.withEnv {tick clrD clrP : Bool} {s t : State} (h : OwnParts tick clrD clrP s t) (e : Env) :
    OwnParts tick clrD clrP s { t with env := e } :=
  ⟨h.cfg, h.sync1, h.sync2, h.hist, h.lvl, h.qst, h.delta, h.press⟩

/-- What the write of the current cycle asks, without the read that may go along with it. -/
def State.presentedWrite (s : State) : HostOp := writeOp s.now.busAddr s.now.busWdata s

/-- A cycle with a write and a read runs the write's operation with the read's data and clear requests (R305). -/
theorem step_write_with_read {s : State} (hrst : s.now.rst = false) (hwe : s.now.busWe = true)
    (hre : s.now.busRe = true) :
    step s = .next (runCycle
      { s.presentedWrite with
        rdata := readReg s s.now.busAddr
        clrD := s.presentedWrite.clrD || decide (s.now.busAddr = 3#3)
        clrP := s.presentedWrite.clrP || decide (s.now.busAddr = 3#3) } s) := by
  rw [step_of_not_rst hrst, cycleOp_write hwe, HostOp.withRead_of_busRe hre, State.presentedWrite]

/-- The state `s` with its current cycle listed without the read, before the cycles `cs`. -/
def State.withoutRead (s : State) (cs : List CycleIn) : State :=
  { s with env := { s.env with inputs := { s.now with busRe := false } :: cs } }

@[simp] theorem now_withoutRead (s : State) (cs : List CycleIn) :
    (s.withoutRead cs).now = { s.now with busRe := false } := rfl

/-- The cycle of a write without its read runs the write's operation alone; only the outside world differs. -/
theorem step_withoutRead {s : State} (cs : List CycleIn) (hrst : s.now.rst = false) (hwe : s.now.busWe = true) :
    step (s.withoutRead cs) =
      .next { runCycle s.presentedWrite s with env := (s.withoutRead cs).env.advance s.presentedWrite.rdata } := by
  have hop : writeOp s.now.busAddr s.now.busWdata (s.withoutRead cs) = _ := writeOp_withEnv ..
  rw [step_of_not_rst (by simpa), cycleOp_write (by simpa), HostOp.withRead_of_not_busRe (by simp),
    now_withoutRead, hop]
  exact congrArg _ (runCycle_withEnv s.presentedWrite rfl fun p => by cases p <;> rfl)

end ReadBesideWrite

section HostBusStatements

/-! ## The statements on the host bus -/

/-- Settles O57: the cycle with the read and the one without it run the same write, whose operation gains the read's
data and, at EVENTS_RC, the clear requests. -/
theorem readAndWriteInOneCycle : Obligations.ReadAndWriteInOneCycle := by
  intro s c cs hin hrst hwe hre
  obtain rfl : s.now = c := now_of_cons hin
  refine ⟨_, _, step_write_with_read hrst hwe hre, step_withoutRead cs hrst hwe, ?rdata, fun ha => ?cmd,
    rfl, rfl, rfl, rfl, rfl, rfl, rfl, rfl, ?inputs, fun ha => ?elsewhere, fun ha => ?eventsRc⟩
  case rdata => rw [runCycle_env, Env.advance_rdata]
  case cmd => rw [runCycle_env, Env.advance_rdata, ha, readReg_cmd]
  case inputs => rw [runCycle_env, Env.advance_inputs, hin, List.tail_cons]
  case elsewhere => simp [ha]
  case eventsRc =>
    have hop : s.presentedWrite = { wr := s } := by rw [State.presentedWrite, ha]; rfl
    have htick : (s.now.pollTick || false) = s.now.pollTick := Bool.or_false _
    rw [hop, ha]
    constructor
    · exact htick ▸ runCycle_ownParts { wr := s, rdata := readReg s 3#3, clrD := true, clrP := true } s
    · exact OwnParts.withEnv (htick ▸ runCycle_ownParts { wr := s } s) _

/-- Settles O6: WR.CMD has the operation of the command that its word decodes to. -/
theorem wrCmdRunsTheDecodedCommand : Obligations.WrCmdRunsTheDecodedCommand :=
  ⟨fun _ => rfl, fun s w => ⟨_, (exec_wrCmd w s).trans (exec_toInstr _ s), exec_toInstr _ s⟩⟩

/-- Settles O48: `exec_read` at addresses 0, 6 and 7, where `ReadReg` is 0. -/
theorem readsOfCmdAndReservedReturnZero : Obligations.ReadsOfCmdAndReservedReturnZero := by
  refine ⟨fun _ => ⟨rfl, rfl, rfl⟩, fun s i hi => ?_⟩
  obtain rfl | ⟨x, rfl⟩ := hi
  · exact exec_read 0#3 s
  · cases x with
    | false => exact exec_read 6#3 s
    | true => exact exec_read 7#3 s

/-- Settles O49: the read data is `statusWord`, by its bits. -/
theorem rdStatusReturnsTheFlags : Obligations.RdStatusReturnsTheFlags := by
  refine ⟨fun _ => rfl, fun s => ?_⟩
  obtain ⟨t, ht, henv, hkept, hown⟩ := exec_read 1#3 s
  have hdata : t.env.rdata = s.statusWord := by rw [henv, Env.advance_rdata]; rfl
  obtain ⟨hbusy, hovr, hcmderr, hpend, hzero⟩ := statusWord_bits s
  rw [← hdata] at hbusy hovr hcmderr hpend hzero
  exact ⟨t, ht, hbusy, hovr, hcmderr, hpend, hzero, hkept, hown⟩

/-- Settles O50: the read data is `eventsWord`, by its fields. -/
theorem rdEventsReturnsTheInputState : Obligations.RdEventsReturnsTheInputState := by
  refine ⟨fun _ => rfl, fun s => ?_⟩
  obtain ⟨t, ht, henv, hkept, hown⟩ := exec_read 2#3 s
  have hdata : t.env.rdata = s.eventsWord := by rw [henv, Env.advance_rdata]; rfl
  obtain ⟨hdelta, hpress, hbit3, hqst, hbit7, ha, hb, hsw, hzero⟩ := eventsWord_fields s
  rw [← hdata] at hdelta hpress hbit3 hqst hbit7 ha hb hsw hzero
  exact ⟨t, ht, hdelta, hpress, hbit3, hqst, hbit7, ha, hb, hsw, hzero, hkept, hown⟩

/-- Settles O51: `ReadReg` is the same at EVENTS and EVENTS_RC, and the read of EVENTS_RC requests both clears. -/
theorem rdEventsRcReadsAndClears : Obligations.RdEventsRcReadsAndClears := by
  refine ⟨fun _ => rfl, fun s => ?_⟩
  obtain ⟨t, ht, henv, hkept, hown⟩ := exec_read 3#3 s
  obtain ⟨u, hu, henv', -⟩ := exec_read 2#3 s
  refine ⟨t, ht, ⟨u, hu, henv.trans henv'.symm⟩, hkept, hown, fun hpoll => ?_⟩
  rw [hpoll] at hown
  exact ⟨hown.delta, hown.press⟩

/-- Settles O52: the read data is `configWord` or `delayWord`, by its fields. -/
theorem rdConfigAndRdDelayReturnTheRegisters : Obligations.RdConfigAndRdDelayReturnTheRegisters := by
  refine ⟨fun _ => ⟨rfl, rfl⟩, fun s => ⟨?config, ?delay⟩⟩
  case config =>
    obtain ⟨t, ht, henv, hkept, hown⟩ := exec_read 4#3 s
    have hdata : t.env.rdata = s.configWord := by rw [henv, Env.advance_rdata]; rfl
    obtain ⟨ha, hbit7, hb, hbit15, hsw, hzero⟩ := configWord_fields s
    rw [← hdata] at ha hbit7 hb hbit15 hsw hzero
    exact ⟨t, ht, ha, hbit7, hb, hbit15, hsw, hzero, hkept, hown⟩
  case delay =>
    obtain ⟨t, ht, henv, hkept, hown⟩ := exec_read 5#3 s
    have hdata : t.env.rdata = s.delayWord := by rw [henv, Env.advance_rdata]; rfl
    obtain ⟨hdelay, hzero⟩ := delayWord_fields s
    rw [← hdata] at hdelay hzero
    exact ⟨t, ht, hdelay, hzero, hkept, hown⟩

/-- Settles O53: at STATUS the register write is the acknowledgement of the two causes (R327). -/
theorem wrStatusClearsWhereWrittenOne : Obligations.WrStatusClearsWhereWrittenOne := by
  refine ⟨fun _ => rfl, fun s w => ?_⟩
  obtain ⟨t, ht, hm, hser, hdelay, hdepth, hovr, hcmderr, hown, henv⟩ := exec_registerWrite (a := 1#3) (by decide) w s
  refine ⟨t, ht, hovr.trans ?ovr, hcmderr.trans ?cmderr, hm, hser, ⟨hdelay, hdepth⟩, hown, henv⟩
  case ovr => exact acknowledged_eq_ite s.ovr (w.getLsbD 1)
  case cmderr => exact acknowledged_eq_ite s.cmderr (w.getLsbD 2)

/-- Settles O54: at each of these addresses the register write is none. -/
theorem ignoredWritesChangeNothing : Obligations.IgnoredWritesChangeNothing := by
  refine ⟨fun _ => ⟨rfl, rfl, rfl, rfl⟩, fun s w x => ⟨?events, ?eventsRc, ?rsvd⟩⟩
  case events => exact exec_ignoredWrite (a := 2#3) (by decide) rfl
  case eventsRc => exact exec_ignoredWrite (a := 3#3) (by decide) rfl
  case rsvd =>
    have hreg : registerWrites (0b11#2 ++ BitVec.ofBool x) w s = s := by cases x <;> rfl
    have h := exec_ignoredWrite (by cases x <;> decide) hreg
    rw [readReg_reserved, ite_self] at h
    cases x <;> exact h

/-- Settles O55: at CONFIG the register write is `Pins.withConfig`, each field by `warlDepth`. -/
theorem wrConfigWritesTheLegalDepths : Obligations.WrConfigWritesTheLegalDepths := by
  refine ⟨fun _ => rfl, fun s w => ?_⟩
  obtain ⟨t, ht, hm, hser, hdelay, hdepth, hovr, hcmderr, hown, henv⟩ := exec_registerWrite (a := 4#3) (by decide) w s
  exact ⟨t, ht, hdepth .a, hdepth .b, hdepth .sw, hdelay, hm, hser, ⟨hovr, hcmderr⟩, hown, henv⟩

/-- Settles O56: at DELAY the register write is `warlDelay`, and the serializer goes on with its latched delay. -/
theorem wrDelayWritesANonZeroDelay : Obligations.WrDelayWritesANonZeroDelay := by
  refine ⟨fun _ => rfl, fun s w => ?_⟩
  obtain ⟨t, ht, hm, hser, hdelay, hdepth, hovr, hcmderr, hown, henv⟩ := exec_registerWrite (a := 5#3) (by decide) w s
  exact ⟨t, ht, hdelay.trans (ite_not ..), hdepth, hser.dl, hm, hser, ⟨hovr, hcmderr⟩, hown, henv⟩

end HostBusStatements

end Sys2Proof.Machine

/-! SUPPORT. The two sticky bits (60_exceptions.md). They are taken together, one for each cause: a command either keeps
both or is a cause and raises it, a write to STATUS acknowledges both, and no other access writes either. -/

namespace Sys2Proof.Machine

section IllegalCommand

/-! ## The word of an illegal command -/

/-- An illegal command carries the word that it is decoded from (R117). -/
theorem decodeCommand_illegal_self {w v : Word} (h : decodeCommand w = .illegal v) :
    decodeCommand w = .illegal w := by
  by_cases hw : illegalWord w = true
  · exact decodeCommand_of_illegalWord hw
  · obtain ⟨hop, -⟩ := (not_illegalWord_iff w).mp hw
    exact absurd ((decodeCommand_of_not_illegalWord hw).symm.trans h) (opcodeCommand_ne_illegal w v hop)

end IllegalCommand

section StickyBits

/-! ## The sticky bit of a cause -/

/-- The sticky bit that records a cause (R320). -/
def State.sticky (s : State) : Cause → Bool
  | .cmdErr => s.cmderr
  | .overrun => s.ovr

/-- The bit of STATUS to which the host writes 1 to clear a cause's sticky bit (R300, R327). -/
def Cause.statusBit : Cause → Nat
  | .cmdErr => 2
  | .overrun => 1

/-- The command `c` is a cause when it is written in the state `s` (R321, R322). -/
def CommandRaises (c : Command) (s : State) : Cause → Prop
  | .cmdErr => ∃ w, c = .illegal w
  | .overrun => s.ser.busy = true ∧ (c = .wrframe ∨ ∃ on bri, c = .dispctrl on bri)

theorem sticky_raise (j k : Cause) (s : State) : (raise j s).sticky k = (s.sticky k || decide (k = j)) := by
  cases j <;> cases k <;> simp [State.sticky]

theorem sticky_acknowledge (w : Word) (k : Cause) (s : State) :
    (acknowledge .cmdErr (w.getLsbD 2) (acknowledge .overrun (w.getLsbD 1) s)).sticky k =
      (s.sticky k && !w.getLsbD k.statusBit) := by
  cases k <;> rfl

@[simp] theorem runCycle_sticky (op : HostOp) (s : State) (k : Cause) :
    (runCycle op s).sticky k = op.wr.sticky k := rfl

@[simp] theorem resetOf_sticky (cfg : Config) (e : Env) (k : Cause) : (State.resetOf cfg e).sticky k = false := by
  cases k <;> rfl

end StickyBits

section StickyWriters

/-! ## Who writes a sticky bit -/

variable {s t : State} {op : HostOp} {k : Cause}

/-- A command keeps both sticky bits, or it is a cause and all that it writes is to raise it (R321, R322). -/
theorem commandOp_sticky (c : Command) (s : State) :
    (∀ k, (commandOp c s).wr.sticky k = s.sticky k) ∨
    ∃ j, CommandRaises c s j ∧ (commandOp c s).wr = raise j s := by
  cases c with
  | illegal w => exact .inr ⟨.cmdErr, ⟨w, rfl⟩, rfl⟩
  | wrframe =>
    cases hb : s.ser.busy with
    | true => exact .inr ⟨.overrun, ⟨hb, .inl rfl⟩, wrframeWrites_busy hb⟩
    | false => left; rw [commandOp, wrframeWrites_idle hb]; exact fun _ => rfl
  | dispctrl on bri =>
    cases hb : s.ser.busy with
    | true => exact .inr ⟨.overrun, ⟨hb, .inr ⟨on, bri, rfl⟩⟩, dispctrlWrites_busy on bri hb⟩
    | false => left; rw [commandOp, dispctrlWrites_idle on bri hb]; exact fun _ => rfl
  | _ => exact .inl fun _ => rfl

/-- Everything a host access can do to the sticky bits: nothing, the raise of the cause that its command is, or the
acknowledgement by a write to STATUS. -/
theorem HostAccess.sticky_cases (h : HostAccess s op) :
    (∀ k, op.wr.sticky k = s.sticky k) ∨
    (s.now.busWe = true ∧ s.now.busAddr = 0#3 ∧
      ∃ j, CommandRaises (decodeCommand s.now.busWdata) s j ∧ op.wr = raise j s) ∨
    (s.now.busWe = true ∧ s.now.busAddr = 1#3 ∧
      ∀ k, op.wr.sticky k = (s.sticky k && !s.now.busWdata.getLsbD k.statusBit)) := by
  cases h with
  | command c hwe ha hc =>
    subst hc
    rw [HostOp.withRead_wr]
    exact (commandOp_sticky _ s).imp_right fun hraise => .inl ⟨hwe, ha, hraise⟩
  | status hwe ha =>
    rw [HostOp.withRead_wr]
    exact .inr (.inr ⟨hwe, ha, fun k => sticky_acknowledge _ k s⟩)
  | none | read => exact .inl fun _ => rfl
  | config | delay | ignored => rw [HostOp.withRead_wr]; exact .inl fun _ => rfl

/-- A step that sets a sticky bit is a cycle in which the host writes a command that is the bit's cause. -/
theorem raises_of_sticky_set (h : step s = .next t) (hold : s.sticky k = false) (hnew : t.sticky k = true) :
    s.now.busWe = true ∧ s.now.busAddr = 0#3 ∧ CommandRaises (decodeCommand s.now.busWdata) s k := by
  obtain ⟨-, rfl⟩ | ⟨-, rfl⟩ := step_reset_or_cycle h
  · simp at hnew
  rw [runCycle_sticky] at hnew
  obtain hkept | ⟨hwe, ha, j, hraises, hwr⟩ | ⟨-, -, hack⟩ := (cycleOp_access s).sticky_cases
  · simp [hkept, hold] at hnew
  · obtain rfl : k = j := by simpa [hwr, sticky_raise, hold] using hnew
    exact ⟨hwe, ha, hraises⟩
  · simp [hack, hold] at hnew

/-- A step that clears a sticky bit is a reset, or a cycle in which the host writes 1 to the bit in STATUS. -/
theorem reset_or_statusWrite_of_sticky_clear (h : step s = .next t) (hold : s.sticky k = true)
    (hnew : t.sticky k = false) :
    s.now.rst = true ∨
      (s.now.busWe = true ∧ s.now.busAddr = 1#3 ∧ s.now.busWdata.getLsbD k.statusBit = true) := by
  obtain ⟨hr, -⟩ | ⟨-, rfl⟩ := step_reset_or_cycle h
  · exact .inl hr
  rw [runCycle_sticky] at hnew
  obtain hkept | ⟨-, -, j, -, hwr⟩ | ⟨hwe, ha, hack⟩ := (cycleOp_access s).sticky_cases
  · simp [hkept, hold] at hnew
  · simp [hwr, sticky_raise, hold] at hnew
  · exact .inr ⟨hwe, ha, by simpa [hack, hold] using hnew⟩

end StickyWriters

section ExceptionStatements

/-! ## The statement on the sticky bits -/

/-- Settles O59: each clause is the rule for a set or for a clear, at one of the two causes. -/
theorem stickyBitsHaveOneCauseAndOneClear : Obligations.StickyBitsHaveOneCauseAndOneClear := by
  intro s t h
  refine ⟨fun hold hnew => ?_, raises_of_sticky_set (k := .overrun) h,
    reset_or_statusWrite_of_sticky_clear (k := .cmdErr) h, reset_or_statusWrite_of_sticky_clear (k := .overrun) h⟩
  obtain ⟨hwe, ha, w, hw⟩ := raises_of_sticky_set (k := .cmdErr) h hold hnew
  exact ⟨hwe, ha, decodeCommand_illegal_self hw⟩

end ExceptionStatements

end Sys2Proof.Machine
